-- ==== Sys2Proof/Word.lean ====
section
/-! DEFINITION. The word types of the SZ768 and the plain data containers of its state (spec 00_scope R2, 02_numbers R40). -/

namespace Sys2Proof

/-- A 64-bit scalar (R74). -/
abbrev Word := BitVec 64
/-- One byte of any memory (R3). -/
abbrev Byte := BitVec 8
/-- A 256-byte tile row. Lane k is bits [32k+31:32k]; element j of width w is bits [wj+w-1:wj] (R40). -/
abbrev Row := BitVec 2048

/-- Sparse data by key, in one canonical form: keys strictly rising, no entry holding the value an
unlisted key reads as. The operations are in Machine/Ops.lean. -/
abbrev FMap (α : Type) := List (Nat × α)

end Sys2Proof
end

