-- ==== Sys2Proof/Syntax.lean ====
section
/-! DEFINITION. The syntax of the machine's steps: one constructor per row of the opcode table. The first
136 are syllables (05_encoding R121 to R126); the others are the events of the module (95_what_each_step_holds). -/

namespace Sys2Proof

/-- The scalar slot of a syllable of class 0 or 1 (R68). -/
inductive Slot where
  | sa
  | sb
  deriving DecidableEq, Repr

/-- A register a scalar specifier names: s[n] or q[n] (R107). -/
inductive SReg where
  | s (n : Fin 32)
  | q (n : Fin 4)
  deriving DecidableEq, Repr

/-- A scalar latch (R107). -/
inductive Latch where
  | ya
  | yb
  | ym
  deriving DecidableEq, Repr

/-- A scalar source specifier (R107). -/
inductive SSrc where
  | reg (r : SReg)
  | latch (l : Latch)
  | const (c : BitVec 6)
  deriving DecidableEq, Repr

/-- A scalar destination specifier (R108); `latch` is 0x80, "latch only". -/
inductive SDst where
  | reg (r : SReg)
  | latch
  deriving DecidableEq, Repr

/-- A scalar guard: none, or the predicate that must be 1 (R109). -/
abbrev Guard := Option (Fin 8)

/-- A tile guard (R114, R157). -/
inductive TGuard where
  | none
  | pred (k : Fin 4)
  | merge (k : Fin 4)
  | zero (k : Fin 4)
  deriving DecidableEq, Repr

/-- A tile row specifier (R110). -/
inductive RowSpec where
  | row (tile r : Fin 16)
  | idx (tile : Fin 16) (lvl : Fin 6)
  | h (n : Fin 4)
  | yt
  | bcast (s : SSrc)
  deriving DecidableEq, Repr

/-- The element types, in the order of their codes (R41). -/
inductive ElemTy where
  | i32 | i16 | i8 | ui8 | f32 | bf16 | f16 | e4m3 | e5m2 | i64
  deriving DecidableEq, Repr

/-- The rounding field (R114). -/
inductive Rnd where
  | fcr | rne | rtz | sr
  deriving DecidableEq, Repr

/-- The compare conditions, in the order of their codes (R113, R134). -/
inductive Cond where
  | eq | ne | lt | ge | ltu | geu
  deriving DecidableEq, Repr

/-- The conditions of wait (R118, R145). -/
inductive WCond where
  | eq | ne | ge | lt
  deriving DecidableEq, Repr

/-- The source width of sext and zext (R121). -/
inductive SWidth where
  | b8 | b16 | b32
  deriving DecidableEq, Repr

/-- A staging register (R121, R135). -/
inductive Stage where
  | d (n : Fin 8)
  | n (k : Fin 4)
  | g (n : Fin 8)
  deriving DecidableEq, Repr

/-- A swizzle field: none, or the span code n of span 16 << n bytes (R117). -/
abbrev Span := Option (Fin 8)

/-- The permission an access needs of a leaf (R327). -/
inductive Need where
  | r | w | rw
  deriving DecidableEq, Repr

/-- The power state of a cluster (R22). -/
inductive Power where
  | active | idle | retention | off
  deriving DecidableEq, Repr

/-- A cause of the security alarm, in the bit order of ALARM_STATUS (R29, R34). -/
inductive AlarmCause where
  | clock | volt | debug | auth
  deriving DecidableEq, Repr

/-- A unit that owns a health count (R28). -/
inductive HealthUnit where
  | core | slice | chan
  deriving DecidableEq, Repr

/-- A master with its id (1 host, 2 second host, 3 board management controller) and the PCIe function
through which it reaches the register window (R26, R27). -/
structure Master where
  id : Fin 4
  fn : Fin 17
  deriving DecidableEq, Repr

/-- A link message: the header of R337 and its data bytes. -/
structure LinkMsg where
  va : BitVec 48
  ctx : Fin 64
  op : Fin 16
  tag : BitVec 16
  seq : BitVec 32
  data : List Byte
  deriving DecidableEq, Repr

/-- The 1588 messages of a partner (R339): a Sync, an Announce of a clock (priority 1, quality, identity and steps removed), a
Pdelay_Req, and a Pdelay_Resp with the time from the request's arrival to the answer's departure. -/
inductive TimeMsg where
  | sync
  | announce (prio1 : BitVec 8) (quality identity : Word) (steps : BitVec 16)
  | pdelayReq
  | pdelayResp (turnaround : Word)
  deriving DecidableEq, Repr

/-- The steps of the part: one constructor per row of the opcode table. -/
inductive Instr where
  /-- NOP (R133): Scalar no-operation; writes nothing, not even a latch. -/
  | nop (sl : Slot) (g : Guard)
  /-- ADD (R133): 64-bit wrapping sum of two scalar sources. -/
  | add (sl : Slot) (g : Guard) (d : SDst) (a b : SSrc)
  /-- SUB (R133): 64-bit wrapping difference of two scalar sources. -/
  | sub (sl : Slot) (g : Guard) (d : SDst) (a b : SSrc)
  /-- ADDI (R133): 64-bit wrapping sum of a scalar source and an immediate. -/
  | addi (sl : Slot) (g : Guard) (d : SDst) (a : SSrc) (imm : Word)
  /-- MUL (R133): Low 64 bits of the product of two scalar sources. -/
  | mul (sl : Slot) (g : Guard) (d : SDst) (a b : SSrc)
  /-- MULH (R133): High 64 bits of the signed 128-bit product. -/
  | mulh (sl : Slot) (g : Guard) (d : SDst) (a b : SSrc)
  /-- MULHU (R133): High 64 bits of the unsigned 128-bit product. -/
  | mulhu (sl : Slot) (g : Guard) (d : SDst) (a b : SSrc)
  /-- AND (R133): Bitwise and of two scalar sources. -/
  | and (sl : Slot) (g : Guard) (d : SDst) (a b : SSrc)
  /-- OR (R133): Bitwise or of two scalar sources. -/
  | or (sl : Slot) (g : Guard) (d : SDst) (a b : SSrc)
  /-- XOR (R133): Bitwise exclusive or of two scalar sources. -/
  | xor (sl : Slot) (g : Guard) (d : SDst) (a b : SSrc)
  /-- ANDN (R133): Bitwise and of a source with the complement of another. -/
  | andn (sl : Slot) (g : Guard) (d : SDst) (a b : SSrc)
  /-- SHL (R133): Left shift by the low six bits of a register. -/
  | shl (sl : Slot) (g : Guard) (d : SDst) (a b : SSrc)
  /-- SHR (R133): Logical right shift by the low six bits of a register. -/
  | shr (sl : Slot) (g : Guard) (d : SDst) (a b : SSrc)
  /-- SAR (R133): Arithmetic right shift by the low six bits of a register. -/
  | sar (sl : Slot) (g : Guard) (d : SDst) (a b : SSrc)
  /-- SHLI (R133): Left shift by an immediate count 0 to 63. -/
  | shli (sl : Slot) (g : Guard) (d : SDst) (a : SSrc) (n : BitVec 6)
  /-- SHRI (R133): Logical right shift by an immediate count 0 to 63. -/
  | shri (sl : Slot) (g : Guard) (d : SDst) (a : SSrc) (n : BitVec 6)
  /-- SARI (R133): Arithmetic right shift by an immediate count 0 to 63. -/
  | sari (sl : Slot) (g : Guard) (d : SDst) (a : SSrc) (n : BitVec 6)
  /-- ANDI (R133): Bitwise and with an immediate. -/
  | andi (sl : Slot) (g : Guard) (d : SDst) (a : SSrc) (imm : Word)
  /-- ORI (R133): Bitwise or with an immediate. -/
  | ori (sl : Slot) (g : Guard) (d : SDst) (a : SSrc) (imm : Word)
  /-- XORI (R133): Bitwise exclusive or with an immediate. -/
  | xori (sl : Slot) (g : Guard) (d : SDst) (a : SSrc) (imm : Word)
  /-- MIN (R133): Signed minimum of two scalar sources. -/
  | min (sl : Slot) (g : Guard) (d : SDst) (a b : SSrc)
  /-- MAX (R133): Signed maximum of two scalar sources. -/
  | max (sl : Slot) (g : Guard) (d : SDst) (a b : SSrc)
  /-- MINU (R133): Unsigned minimum of two scalar sources. -/
  | minu (sl : Slot) (g : Guard) (d : SDst) (a b : SSrc)
  /-- MAXU (R133): Unsigned maximum of two scalar sources. -/
  | maxu (sl : Slot) (g : Guard) (d : SDst) (a b : SSrc)
  /-- LI (R133): Loads an immediate, extended by LX when present, into a scalar. -/
  | li (sl : Slot) (g : Guard) (d : SDst) (imm : Word)
  /-- MOV (R133): Copies a scalar source to the destination. -/
  | mov (sl : Slot) (g : Guard) (d : SDst) (a : SSrc)
  /-- SEL (R133): Selects one of two sources by a predicate read through fn. -/
  | sel (sl : Slot) (g : Guard) (d : SDst) (p : Fin 8) (a b : SSrc)
  /-- CLZ (R133): Counts leading zero bits. -/
  | clz (sl : Slot) (g : Guard) (d : SDst) (a : SSrc)
  /-- CTZ (R133): Counts trailing zero bits. -/
  | ctz (sl : Slot) (g : Guard) (d : SDst) (a : SSrc)
  /-- POPC (R133): Counts one bits. -/
  | popc (sl : Slot) (g : Guard) (d : SDst) (a : SSrc)
  /-- SEXT (R133): Sign-extends the low 8, 16 or 32 bits of a source. -/
  | sext (sl : Slot) (g : Guard) (d : SDst) (w : SWidth) (a : SSrc)
  /-- ZEXT (R133): Zero-extends the low 8, 16 or 32 bits of a source. -/
  | zext (sl : Slot) (g : Guard) (d : SDst) (w : SWidth) (a : SSrc)
  /-- ADDW (R133): 32-bit wrapping sum, sign-extended to 64 bits. -/
  | addw (sl : Slot) (g : Guard) (d : SDst) (a b : SSrc)
  /-- SUBW (R133): 32-bit wrapping difference, sign-extended to 64 bits. -/
  | subw (sl : Slot) (g : Guard) (d : SDst) (a b : SSrc)
  /-- MULW (R133): 32-bit wrapping product, sign-extended to 64 bits. -/
  | mulw (sl : Slot) (g : Guard) (d : SDst) (a b : SSrc)
  /-- LEA (R133): Adds a source to another shifted left by 0 to 7. -/
  | lea (sl : Slot) (g : Guard) (d : SDst) (a b : SSrc) (k : Fin 8)
  /-- BFX (R133): Extracts a zero-extended bit field. -/
  | bfx (sl : Slot) (g : Guard) (d : SDst) (a : SSrc) (p : BitVec 6) (n : BitVec 7)
  /-- BFI (R133): Inserts a bit field into the destination, which is also read. -/
  | bfi (sl : Slot) (g : Guard) (d : SDst) (a : SSrc) (p : BitVec 6) (n : BitVec 7)
  /-- CMP (R134): Compares two sources under a condition and writes a predicate. -/
  | cmp (sl : Slot) (g : Guard) (cc : Cond) (k : Fin 8) (a b : SSrc)
  /-- CMPI (R134): Compares a source with an immediate and writes a predicate. -/
  | cmpi (sl : Slot) (g : Guard) (cc : Cond) (k : Fin 8) (a : SSrc) (imm : Word)
  /-- PAND (R134): Predicate and. -/
  | pand (sl : Slot) (g : Guard) (k l m : Fin 8)
  /-- POR (R134): Predicate or. -/
  | por (sl : Slot) (g : Guard) (k l m : Fin 8)
  /-- PXOR (R134): Predicate exclusive or. -/
  | pxor (sl : Slot) (g : Guard) (k l m : Fin 8)
  /-- PNOT (R134): Predicate not. -/
  | pnot (sl : Slot) (g : Guard) (k l : Fin 8)
  /-- STG (R135): Writes a scalar to a d, n or g staging register. -/
  | stg (sl : Slot) (g : Guard) (r : Stage) (a : SSrc)
  /-- BR (R138): Branches by a displacement when taken, with one held cycle. -/
  | br (g : Guard) (disp : Word)
  /-- CALL (R139): Pushes a call entry and branches to the target. -/
  | call (g : Guard) (disp : Word)
  /-- RET (R139): Pops the top call entry and returns to it. -/
  | ret (g : Guard)
  /-- JMP (R138): Jumps to the syllable index held in a register. -/
  | jmp (g : Guard) (a : SSrc)
  /-- LOOP (R140): Pushes a hardware loop level with a count, or skips the body when the count is zero. -/
  | loop (g : Guard) (a : SSrc) (disp : BitVec 32)
  /-- LEXIT (R142): Pops the innermost loop level and continues after its last group. -/
  | lexit (g : Guard)
  /-- RCALL (R144): Synchronous routine call, bound to the definition or a native unit. -/
  | rcall (g : Guard) (idx : BitVec 12)
  /-- RCALL_ASYNC (R225): Asynchronous routine call that adds 1 to a counter and may queue on the native unit. -/
  | rcallAsync (g : Guard) (idx : BitVec 12) (ctr : Fin 16)
  /-- RRET (R144): Returns from a routine level, restoring the caller's bank. -/
  | rret (g : Guard)
  /-- WAIT (R145): Reads a scratchpad word and waits, with optional timeout, until a condition holds. -/
  | wait (g : Guard) (cc : WCond) (addr value timeout : SSrc) (k : Fin 8)
  /-- WAITC (R146): Waits until a pending-byte counter falls to a threshold. -/
  | waitc (g : Guard) (ctr : Fin 16) (thr : SSrc)
  /-- BAR (R147): Arrives at the cluster barrier of the task's group and waits. -/
  | bar (g : Guard)
  /-- YIELD (R148): A pre-emption point with no other effect. -/
  | yield (g : Guard)
  /-- HALT (R150): Ends the task once outstanding asynchronous routines complete. -/
  | halt (g : Guard)
  /-- TRAP (R151): Raises a software trap with a code. -/
  | trap (g : Guard) (code : BitVec 32)
  /-- BRK (R151): Raises a breakpoint with a code. -/
  | brk (g : Guard) (code : BitVec 32)
  /-- SETFM (R152): Writes a format register, taking effect four cycles later. -/
  | setfm (g : Guard) (k : Fin 8) (a : SSrc)
  /-- SETFCR (R152): Writes fcr or fsr, as wrctl does. -/
  | setfcr (g : Guard) (fsr : Bool) (a : SSrc)
  /-- RDCTL (R152): Reads a control register into a scalar. -/
  | rdctl (g : Guard) (d : SReg) (r : BitVec 12)
  /-- WRCTL (R152): Writes a read-write control register. -/
  | wrctl (g : Guard) (r : BitVec 12) (a : SSrc)
  /-- TADD (R160): Element-wise floating-point addition, rounded once. -/
  | tadd (g : TGuard) (ty : ElemTy) (rnd : Rnd) (d a b : RowSpec)
  /-- TSUB (R160): Element-wise floating-point subtraction. -/
  | tsub (g : TGuard) (ty : ElemTy) (rnd : Rnd) (d a b : RowSpec)
  /-- TMUL (R160): Element-wise floating-point multiplication. -/
  | tmul (g : TGuard) (ty : ElemTy) (rnd : Rnd) (d a b : RowSpec)
  /-- TFMA (R160): Element-wise fused multiply-add into the destination. -/
  | tfma (g : TGuard) (ty : ElemTy) (rnd : Rnd) (d a b : RowSpec)
  /-- TFMS (R160): Element-wise fused multiply-subtract of the destination. -/
  | tfms (g : TGuard) (ty : ElemTy) (rnd : Rnd) (d a b : RowSpec)
  /-- TMIN (R161): Element-wise floating-point minimum. -/
  | tmin (g : TGuard) (ty : ElemTy) (d a b : RowSpec)
  /-- TMAX (R161): Element-wise floating-point maximum. -/
  | tmax (g : TGuard) (ty : ElemTy) (d a b : RowSpec)
  /-- TABS (R161): Clears the sign of each element. -/
  | tabs (g : TGuard) (ty : ElemTy) (d a : RowSpec)
  /-- TNEG (R161): Inverts the sign of each element. -/
  | tneg (g : TGuard) (ty : ElemTy) (d a : RowSpec)
  /-- TCMP (R162): Floating-point compare writing a lane mask. -/
  | tcmp (g : TGuard) (ty : ElemTy) (cc : Cond) (k : Fin 4) (a b : RowSpec)
  /-- TSEL (R163): Selects whole lanes of two rows by a lane mask. -/
  | tsel (g : TGuard) (k : Fin 4) (d a b : RowSpec)
  /-- TCVT (R166): Converts a row between any two element types, keeping element positions. -/
  | tcvt (g : TGuard) (ty src : ElemTy) (rnd : Rnd) (d a : RowSpec)
  /-- IADD (R164): Element-wise wrapping integer addition. -/
  | iadd (g : TGuard) (ty : ElemTy) (d a b : RowSpec)
  /-- ISUB (R164): Element-wise wrapping integer subtraction. -/
  | isub (g : TGuard) (ty : ElemTy) (d a b : RowSpec)
  /-- IMUL (R164): Element-wise wrapping integer multiplication. -/
  | imul (g : TGuard) (ty : ElemTy) (d a b : RowSpec)
  /-- IMAC (R164): Element-wise wrapping integer multiply-accumulate. -/
  | imac (g : TGuard) (ty : ElemTy) (d a b : RowSpec)
  /-- IADDS (R164): Element-wise saturating integer addition. -/
  | iadds (g : TGuard) (ty : ElemTy) (d a b : RowSpec)
  /-- ISUBS (R164): Element-wise saturating integer subtraction. -/
  | isubs (g : TGuard) (ty : ElemTy) (d a b : RowSpec)
  /-- IMIN (R164): Element-wise integer minimum. -/
  | imin (g : TGuard) (ty : ElemTy) (d a b : RowSpec)
  /-- IMAX (R164): Element-wise integer maximum. -/
  | imax (g : TGuard) (ty : ElemTy) (d a b : RowSpec)
  /-- IAND (R164): Lane-wise bitwise and. -/
  | iand (g : TGuard) (d a b : RowSpec)
  /-- IOR (R164): Lane-wise bitwise or. -/
  | ior (g : TGuard) (d a b : RowSpec)
  /-- IXOR (R164): Lane-wise bitwise exclusive or. -/
  | ixor (g : TGuard) (d a b : RowSpec)
  /-- ISHL (R164): Element-wise left shift. -/
  | ishl (g : TGuard) (ty : ElemTy) (d a b : RowSpec)
  /-- ISHR (R164): Element-wise logical right shift. -/
  | ishr (g : TGuard) (ty : ElemTy) (d a b : RowSpec)
  /-- ISAR (R164): Element-wise arithmetic right shift. -/
  | isar (g : TGuard) (ty : ElemTy) (d a b : RowSpec)
  /-- ICMP (R165): Integer compare writing a lane mask. -/
  | icmp (g : TGuard) (ty : ElemTy) (cc : Cond) (k : Fin 4) (a b : RowSpec)
  /-- TMOV (R167): Copies a row lane by lane. -/
  | tmov (g : TGuard) (d a : RowSpec)
  /-- TZERO (R167): Zeroes a row. -/
  | tzero (g : TGuard) (d : RowSpec)
  /-- TIOTA (R167): Writes each lane's index into it. -/
  | tiota (g : TGuard) (d : RowSpec)
  /-- TPERM (R167): Permutes lanes by an index row. -/
  | tperm (g : TGuard) (d a x : RowSpec)
  /-- TSL (R167): Shifts lanes toward lane 0, filling with zeros. -/
  | tsl (g : TGuard) (d a : RowSpec) (n : BitVec 6)
  /-- TRED (R168): Reduces a row to one element by a fixed tree. -/
  | tred (g : TGuard) (ty : ElemTy) (rnd : Rnd) (d a : RowSpec)
  /-- TMVS (R169): Moves one lane or lane pair into a scalar. -/
  | tmvs (g : TGuard) (ty : ElemTy) (d : SReg) (a : RowSpec) (lane : BitVec 6)
  /-- MKAND (R170): Lane-mask and. -/
  | mkand (g : TGuard) (k l m : Fin 4)
  /-- MKOR (R170): Lane-mask or. -/
  | mkor (g : TGuard) (k l m : Fin 4)
  /-- MKNOT (R170): Lane-mask not. -/
  | mknot (g : TGuard) (k l : Fin 4)
  /-- MKPOP (R170): Counts the set bits of a lane mask into a scalar. -/
  | mkpop (g : TGuard) (d : SReg) (l : Fin 4)
  /-- MKSET (R170): Sets a lane mask from a scalar. -/
  | mkset (g : TGuard) (k : Fin 4) (a : SSrc)
  /-- PPAC (R176): Plane product of one A row with 32 B columns, accumulated into an accumulator row. -/
  | ppac (g : Guard) (acc : Fin 4) (r : Fin 32) (a b : SSrc) (ia ib : Fin 16) (fx fy : Fin 8) (ra : Fin 32)
  /-- ACCZ (R181): Zeroes accumulator rows and sets the tile exponent. -/
  | accz (g : Guard) (acc : Fin 4) (f : Fin 32) (n : BitVec 6) (e : BitVec 16)
  /-- ACCRD (R183): Converts an accumulator row into a tile row. -/
  | accrd (g : Guard) (acc : Fin 4) (r : Fin 32) (ty : ElemTy) (rnd : Rnd) (d : RowSpec) (h : Bool)
  /-- ACCWR (R184): Writes an accumulator row from a tile row. -/
  | accwr (g : Guard) (acc : Fin 4) (r : Fin 32) (ty : ElemTy) (a : RowSpec) (h : Bool)
  /-- ACCLD (R185): Loads accumulator rows from scratchpad. -/
  | accld (g : Guard) (acc : Fin 4) (f : Fin 32) (n : BitVec 6) (a : SSrc)
  /-- ACCST (R185): Stores accumulator rows to scratchpad. -/
  | accst (g : Guard) (acc : Fin 4) (f : Fin 32) (n : BitVec 6) (a : SSrc)
  /-- ACCEXP (R182): Re-expresses every entry of a tile at a new exponent. -/
  | accexp (g : Guard) (acc : Fin 4) (e : BitVec 16)
  /-- LD8 (R192): Loads a sign-extended byte. -/
  | ld8 (g : Guard) (d : SDst) (a : SSrc) (disp : Word)
  /-- LD8U (R192): Loads a zero-extended byte. -/
  | ld8u (g : Guard) (d : SDst) (a : SSrc) (disp : Word)
  /-- LD16 (R192): Loads a sign-extended halfword. -/
  | ld16 (g : Guard) (d : SDst) (a : SSrc) (disp : Word)
  /-- LD16U (R192): Loads a zero-extended halfword. -/
  | ld16u (g : Guard) (d : SDst) (a : SSrc) (disp : Word)
  /-- LD32 (R192): Loads a sign-extended word. -/
  | ld32 (g : Guard) (d : SDst) (a : SSrc) (disp : Word)
  /-- LD32U (R192): Loads a zero-extended word. -/
  | ld32u (g : Guard) (d : SDst) (a : SSrc) (disp : Word)
  /-- LD64 (R192): Loads a doubleword. -/
  | ld64 (g : Guard) (d : SDst) (a : SSrc) (disp : Word)
  /-- ST8 (R192): Stores a byte. -/
  | st8 (g : Guard) (a : SSrc) (disp : Word) (b : SSrc)
  /-- ST16 (R192): Stores a halfword. -/
  | st16 (g : Guard) (a : SSrc) (disp : Word) (b : SSrc)
  /-- ST32 (R192): Stores a word. -/
  | st32 (g : Guard) (a : SSrc) (disp : Word) (b : SSrc)
  /-- ST64 (R192): Stores a doubleword. -/
  | st64 (g : Guard) (a : SSrc) (disp : Word) (b : SSrc)
  /-- TLD (R196): Loads a 256-byte row. -/
  | tld (g : TGuard) (r : RowSpec) (a : SSrc) (disp : Word)
  /-- TST (R196): Stores a 256-byte row. -/
  | tst (g : TGuard) (r : RowSpec) (a : SSrc) (disp : Word)
  /-- TLDW (R196): Loads one row into each of a pair of tiles. -/
  | tldw (g : TGuard) (r : RowSpec) (a : SSrc) (disp : Word)
  /-- TSTW (R196): Stores one row from each of a pair of tiles. -/
  | tstw (g : TGuard) (r : RowSpec) (a : SSrc) (disp : Word)
  /-- TLDB (R196): Loads 32 bytes repeated across a row. -/
  | tldb (g : TGuard) (r : RowSpec) (a : SSrc) (disp : Word)
  /-- TLDG (R197): Scoreboarded gather load of one word per enabled lane. -/
  | tldg (g : TGuard) (d : RowSpec) (a : SSrc) (x : RowSpec) (k : Fin 4)
  /-- XFENCE (R199): Orders accesses on one set of paths before accesses on another. -/
  | xfence (g : Guard) (a b : BitVec 5)
  /-- REL (R200): Waits until every earlier access is performed; a release in a redundant launch. -/
  | rel (g : Guard)
  /-- WFENCE (R200): Waits until earlier link-path writes are visible at every device. -/
  | wfence (g : Guard)
  /-- PREF (R201): Asks the lease cache to fetch a global line; never faults. -/
  | pref (g : Guard) (a : SSrc) (disp : Word)
  /-- CPY (R211): Queues a row copy between scratchpad, global memory and slices. -/
  | cpy (g : Guard) (ctr : Fin 16) (cw : Bool) (tag : BitVec 16) (ss ds : Span)
  /-- CPYA (R212): Queues an atomic accumulate at the destination port, optionally returning old values. -/
  | cpya (g : Guard) (ctr : Fin 16) (cw : Bool) (ret : Bool) (op : Fin 12) (tag : BitVec 16) (ss : Span)
  /-- CPYP (R213): Queues a quantisation of elements into plane blocks. -/
  | cpyp (g : Guard) (ctr : Fin 16) (cw : Bool) (tag : BitVec 16) (ds : Span)
  /-- CPYU (R213): Queues a conversion of plane blocks into elements. -/
  | cpyu (g : Guard) (ctr : Fin 16) (cw : Bool) (tag : BitVec 16) (ss : Span)
  /-- CPYL (R214): Queues a copy to a remote device over the links. -/
  | cpyl (g : Guard) (ctr : Fin 16) (cw : Bool) (tag : BitVec 16) (ss : Span)
  /-- CPYX (R214): Queues a reduction applied at a remote port. -/
  | cpyx (g : Guard) (ctr : Fin 16) (cw : Bool) (op : Fin 12) (tag : BitVec 16) (ss : Span)
  /-- SIG (R215): Writes a signal word after every earlier engine command completes. -/
  | sig (g : Guard) (ctr : Fin 16) (cw : Bool) (tag : BitVec 16)
  /-- IXST (R216): Queues an index gather of rows. -/
  | ixst (g : Guard) (ctr : Fin 16) (cw : Bool) (tag : BitVec 16)
  /-- IXEND (R216): Queues an index scatter of rows. -/
  | ixend (g : Guard) (ctr : Fin 16) (cw : Bool) (tag : BitVec 16)
  /-- MARR (R215): Arrives at a milestone with declared bytes and expected count. -/
  | marr (g : Guard) (ctr : Fin 16) (cw : Bool) (m : BitVec 8)
  /-- RESULT_VISIBLE (R70): A fixed-latency result, with its flags, becomes visible at c + L. -/
  | resultVisible (core : Nat)
  /-- LOAD_REPLY (R72): A scoreboarded load reply arrives and clears the pending destination. -/
  | loadReply (core n : Nat)
  /-- TRANSLATION_WALK_COMPLETE (R328): A page walk ends, filling the caches or raising a translation fault. -/
  | translationWalkComplete (core : Nat) (va : Word) (need : Need)
  /-- FREEZE_TIMEOUT (R73): A freeze lasting 2^20 compute cycles stops the task with 0x0D. -/
  | freezeTimeout (core : Nat)
  /-- WAIT_SATISFIED (R145): An armed wait comparator finds its condition true and the next group issues. -/
  | waitSatisfied (core : Nat)
  /-- WAIT_TIMEOUT (R145): A wait's timeout expires, setting its predicate. -/
  | waitTimeout (core : Nat)
  /-- WAITC_SATISFIED (R146): A delivery brings the counter to the threshold and the waiting task proceeds. -/
  | waitcSatisfied (core : Nat)
  /-- FENCE_WAIT_END (R199): The condition of a waiting xfence, rel or wfence holds and the next group issues. -/
  | fenceWaitEnd (core : Nat)
  /-- PREEMPTION_INTERVAL_EXCEEDED (R309): The interval count reaches I and the task stops with 0x13. -/
  | preemptionIntervalExceeded (core : Nat)
  /-- PREEMPTION_STOP (R310): A task with a pending stop request reaches a pre-emption point and stops. -/
  | preemptionStop (core : Nat)
  /-- SAVE_COMPLETE (R310): A task state block and scratchpad finish writing to the save slot. -/
  | saveComplete (core : Nat)
  /-- STOP_REPORT (R348): The executive applies the context policy to a reported trap. -/
  | stopReport (core : Nat)
  /-- COMMAND_COMPLETE (R207): An engine command's last byte is delivered, its completion word written and its flags ORed. -/
  | commandComplete (core n : Nat)
  /-- CHUNK_DELIVERY (R205): A chunk or block of an engine command is delivered and its counter decremented. -/
  | chunkDelivery (core n : Nat)
  /-- NATIVE_CALL_COMPLETE (R225): A native unit's last footprint write becomes visible and the call completes. -/
  | nativeCallComplete (core : Nat)
  /-- NATIVE_HANDOVER (R232): A native unit hands over to its definition state at an iteration boundary. -/
  | nativeHandover (core iters : Nat)
  /-- MILESTONE_ARRIVAL (R319): A marr arrival reaches its milestone after earlier accesses are performed. -/
  | milestoneArrival (core n : Nat)
  /-- LOGICAL_CLOCK_TICK (R252): A core's logical clock advances, ending leases as it passes them. -/
  | logicalClockTick (core : Nat)
  /-- RELEASE_MEETING_TIMEOUT (R368): 2^20 cycles pass after the first arrival and the meeting closes. -/
  | releaseMeetingTimeout (core : Nat)
  /-- RESYNC_COMPLETE (R372): The copy of the lead's state into a minority replica completes and all resume. -/
  | resyncComplete (core : Nat)
  /-- ORDERED_COMMIT (R377): The oldest halted ordered task publishes and aborts younger tasks that read its lines. -/
  | orderedCommit (core : Nat)
  /-- ORDERED_EARLY_PUBLICATION (R378): An overflowing ordered task publishes early once it is the oldest. -/
  | orderedEarlyPublication (core : Nat)
  /-- SEAL (R280): A host write of 0xA5 to a slot's byte 255 arms its queue, or latches a wake. -/
  | seal (q : Fin 64) (slot : Fin 16)
  /-- LAUNCH_RECORD (R283): A parsed launch record is checked, its image verified and the launch set placing. -/
  | launchRecord (q : Fin 64)
  /-- SIGNAL_RECORD (R281): A signal record writes its value once earlier records complete. -/
  | signalRecord (q : Fin 64)
  /-- WAIT_RECORD (R281): A wait record parks the queue on a word. -/
  | waitRecord (q : Fin 64)
  /-- CAPTURE_START (R287): Opens a performance capture of eight counters. -/
  | captureStart (q : Fin 64)
  /-- CAPTURE_STOP (R287): Writes the capture record and closes the capture. -/
  | captureStop (q : Fin 64)
  /-- FENCE_RECORD (R283): Holds the queue until no earlier launch remains open. -/
  | fenceRecord (q : Fin 64)
  /-- NOP_RECORD (R281): A record with no effect beyond advancing the queue. -/
  | nopRecord (q : Fin 64)
  /-- PARKED_WAIT_POLL (R283): A parked queue re-reads its word at its polling slot. -/
  | parkedWaitPoll (q : Fin 64)
  /-- ROUNDABOUT_FRAME (R284): A frame boundary starts placement decisions and completion reporting. -/
  | roundaboutFrame
  /-- RELEASE_STROBE (R306): Device time reaches Ts and every core of the round issues its first group. -/
  | releaseStrobe (l : Nat)
  /-- LAUNCH_COMPLETION (R264): A drained launch writes its completion signal and retires. -/
  | launchCompletion (l : Nat)
  /-- QUEUE_STALL_TIMEOUT (R288): A queue stays parked, waiting or placing for Q_STALL frames and sets stall. -/
  | queueStallTimeout (q : Fin 64)
  /-- MODULE_GATING (R22): With all clusters idle-retained and no queue running, the module gates. -/
  | moduleGating
  /-- WAKE_SEQUENCE_COMPLETE (R289): The wake sequence ends and latched queues are scanned. -/
  | wakeSequenceComplete
  /-- CLUSTER_POWER_CHANGE (R22): The executive moves a cluster between power states. -/
  | clusterPowerChange (cl : Nat) (p : Power)
  /-- POWER_ON (R25): Power good runs bring-up. -/
  | powerOn
  /-- MOD_RESET (R24): The owner writes the key to MOD_RESET, killing contexts and rerunning bring-up. -/
  | modReset (m : Master) (v : BitVec 32)
  /-- CXL_CONVENTIONAL_RESET (R24): A CXL conventional reset acts as a module reset. -/
  | cxlConventionalReset
  /-- FUNCTION_LEVEL_RESET (R360): The host's FLR resets every context bound to the function. -/
  | functionLevelReset (f : Fin 17)
  /-- SECURITY_ALARM (R29): A clock or voltage glitch zeroes keys, kills contexts and locks the module. -/
  | securityAlarm (c : AlarmCause)
  /-- OWN_CLAIM (R26): A master claims ownership. -/
  | ownClaim (m : Master) (v : BitVec 32)
  /-- OWN_HANDOVER (R26): The owner starts a handover to a target. -/
  | ownHandover (m : Master) (v : BitVec 32)
  /-- HANDOVER_TIMEOUT (R26): The target does not claim within 1 ms and ownership returns. -/
  | handoverTimeout
  /-- OWN_RELEASE (R26): The owner gives up ownership. -/
  | ownRelease (m : Master) (v : BitVec 32)
  /-- OWNER_PATH_LOSS (R26): The owner's path is down for 100 ms and the module becomes unowned. -/
  | ownerPathLoss
  /-- MAINTENANCE_WINDOW (R28): SPARE_CTL opens a window in which pending substitutions take place. -/
  | maintenanceWindow (m : Master) (v : BitVec 32)
  /-- CORRECTED_ECC_EVENT (R28): A corrected error raises a health count, possibly marking a unit for retirement. -/
  | correctedEccEvent (u : HealthUnit) (n : Nat)
  /-- CLUSTER_FAILURE (R274): A cluster fails with no spare; its groups are re-placed and the partition shrinks. -/
  | clusterFailure (cl : Nat)
  /-- READ_BLOCK (R36): Copies a stored configuration block into MB_DATA. -/
  | readBlock (m : Master) (v : BitVec 32)
  /-- WRITE_BLOCK (R36): Authenticates and stores the block in MB_DATA. -/
  | writeBlock (m : Master) (v : BitVec 32)
  /-- READ_FLASH_LOG (R36): Copies the flash log into MB_DATA. -/
  | readFlashLog (m : Master) (v : BitVec 32)
  /-- WRITE_IMAGE_CHUNK (R36): Writes a 4 KiB image chunk and marks the slot unverified. -/
  | writeImageChunk (m : Master) (v : BitVec 32)
  /-- COMMIT_IMAGE_SLOT (R36): Authenticates an image slot. -/
  | commitImageSlot (m : Master) (v : BitVec 32)
  /-- CONFIGURE (R272): Binds a free context's resources and key. -/
  | configure (m : Master) (x : Fin 64)
  /-- DESTROY (R272): Resets the context, zeroes its key and releases its resources. -/
  | destroy (m : Master) (x : Fin 64)
  /-- RESUME (R272): Re-places a faulted context's held groups. -/
  | resume (m : Master) (x : Fin 64)
  /-- KILL (R272): Discards a faulted context's held launch without completion. -/
  | kill (m : Master) (x : Fin 64)
  /-- RESIZE (R274): Applies new partition limits to a resident or saved context. -/
  | resize (m : Master) (x : Fin 64)
  /-- RESET (R276): Runs the seven reset steps for one context. -/
  | reset (m : Master) (x : Fin 64)
  /-- CONTEXT_SCRUB_COMPLETE (R276): A reset's or destroy's scrub ends and the context becomes configured or free. -/
  | contextScrubComplete (x : Fin 64)
  /-- SKIP (R282): Drops the failing record and clears the queue error. -/
  | skip (m : Master) (q : Fin 64)
  /-- FLUSH (R282): Clears every slot's seal, resets the head and clears the error. -/
  | flush (m : Master) (q : Fin 64)
  /-- Q_PRIO (R286): A write of the base priority restarts aging, clamping 7 for non-owners. -/
  | qPrio (m : Master) (q : Fin 64) (v : BitVec 32)
  /-- INVALIDATE_PAGE (R330): Invalidates every cached entry whose page holds CTX_INVVA. -/
  | invalidatePage (m : Master) (x : Fin 64)
  /-- INVALIDATE_CONTEXT (R330): Invalidates every cached entry of the context. -/
  | invalidateContext (m : Master) (x : Fin 64)
  /-- INVALIDATION_COMPLETE (R330): Matching entries are dropped and dependent accesses performed; busy clears. -/
  | invalidationComplete (x : Fin 64)
  /-- DBG_UNLOCK (R350): A credential write unlocks debug or fires the alarm. -/
  | dbgUnlock (m : Master) (v : BitVec 32)
  /-- DBG_TGT (R351): Names the debug target, clearing breakpoint enables and pending stops. -/
  | dbgTgt (m : Master) (v : Word)
  /-- DEBUG_STOP_REQUEST (R352): DBG_CTL[0] requests a debug stop of the target. -/
  | debugStopRequest (m : Master) (v : BitVec 32)
  /-- DEBUG_STOP (R352): The target stops before its next group, or at its waiting group, with 0x10. -/
  | debugStop (core : Nat)
  /-- ADDRESS_BREAKPOINT (R352): The target is about to issue a breakpointed group and stops before it. -/
  | addressBreakpoint (core : Nat)
  /-- FAULT_INJECTION (R353): An armed channel's task reaches its group count and a named bit flips. -/
  | faultInjection (ch : Fin 4)
  /-- LNK_CTL (R338): Enables or disables a link, starting training or taking it down. -/
  | lnkCtl (m : Master) (l : Fin 16) (v : BitVec 32)
  /-- LNK_WIN (R340): Sets the window length, forcing live links to retrain. -/
  | lnkWin (m : Master) (v : BitVec 32)
  /-- LINK_TRAINING_COMPLETE (R338): Training ends with the link up or degraded. -/
  | linkTrainingComplete (l : Fin 16) (good : BitVec 5)
  /-- LINK_TRAINING_TIMEOUT (R338): Training fails or 100 ms pass; the link falls down and retries every 100 ms. -/
  | linkTrainingTimeout (l : Fin 16) (why : BitVec 4)
  /-- LANE_ERROR_THRESHOLD (R338): A lane exceeds LNK_ERRTHR for 3 ms; the spare is swapped in or the link fails. -/
  | laneErrorThreshold (l : Fin 16) (lane : Fin 5)
  /-- PARTNER_SILENCE_TIMEOUT (R338): No flit arrives for 1 ms and the link goes down, reporting chunks lost. -/
  | partnerSilenceTimeout (l : Fin 16)
  /-- LINK_ADMISSION (R340): A sender admits a chunk in a window or defers it. -/
  | linkAdmission (core n : Nat)
  /-- WRITE_MESSAGE (R337): A received write message is applied once and accepted. -/
  | writeMessage (l : Fin 16) (msg : LinkMsg)
  /-- REDUCE_MESSAGE (R342): A received reduce message is applied atomically at the remote port. -/
  | reduceMessage (l : Fin 16) (msg : LinkMsg)
  /-- SIGNAL_MESSAGE (R337): A received signal message writes its word. -/
  | signalMessage (l : Fin 16) (msg : LinkMsg)
  /-- PADDING_MESSAGE (R337): A padding message fills the rest of a data flit. -/
  | paddingMessage (l : Fin 16)
  /-- NEGATIVE_ACKNOWLEDGEMENT (R336): The sender replays from the first discarded flit. -/
  | negativeAcknowledgement (l : Fin 16) (seq : BitVec 12)
  /-- CHUNK_ACCEPT (R337): Acknowledges a chunk, returning remote flags, refusal or duplicate. -/
  | chunkAccept (l : Fin 16) (flags : BitVec 6) (refused dup : Bool) (seq : BitVec 32)
  /-- CREDIT (R337): Returns message buffer credits to the sender. -/
  | credit (l : Fin 16) (n : BitVec 16)
  /-- TRAIN (R337): Exchanges window code, lanes, next chunk sequence and clock identity. -/
  | train (l : Fin 16) (win : BitVec 4) (lanes : BitVec 5) (next : BitVec 32) (clock : Word)
  /-- GATE (R337): A partner advertises that it is gated or awake. -/
  | gate (l : Fin 16) (gated : Bool)
  /-- WAKE_REQUEST (R337): A partner with waiting chunks starts the wake sequence. -/
  | wakeRequest (l : Fin 16)
  /-- TIME_MESSAGE (R339): An IEEE 1588 message updates device time and the time state; the offset is that of a Sync. -/
  | timeMessage (l : Fin 16) (offset : Word) (msg : TimeMsg)
  /-- HOLDOVER_TIMEOUT (R339): Holdover lasts 10 ms and the time state becomes free. -/
  | holdoverTimeout
  /-- REGISTER_WRITE (R6): A write to a register with no behaviour of its own, ignored if denied. -/
  | registerWrite (m : Master) (addr : Nat) (v : Word)
  /-- HOST_MEMORY_ACCESS (R23): A host CXL.mem access to the host-managed device-memory range, held while the stack leaves self-refresh when the module is gated. -/
  | hostMemoryAccess (addr : Nat) (data : List Byte)
  /-- UNKNOWN_OPCODE_RECORD (R282): A parsed record whose opcode is unknown is not executed and puts the queue in error cause 1. -/
  | unknownOpcodeRecord (q : Fin 64)
  /-- ROUND_LOADED (R306): The last core of a placement round finishes loading or restoring, and the executive chooses the strobe time Ts. -/
  | roundLoaded (l : Nat)
  /-- MAILBOX_COMMAND_COMPLETE (R36): A mailbox command finishes, MB_STATUS.result is set and busy clears. -/
  | mailboxCommandComplete
  /-- MB_CMD_BAD_COMMAND (R36): A write of MB_CMD with a command code outside 1 to 5 gives result 1. -/
  | mbCmdBadCommand (m : Master) (v : BitVec 32)
  /-- IDLE_FLIT (R335): A received idle flit delivers its cumulative acknowledgement and keeps the partner alive. -/
  | idleFlit (l : Fin 16) (ack : BitVec 12)
  /-- Q_STALLCLR (R288): A W1C write of Q_STALLCLR clears Q_STATUS.stall and bit q of EXE_STALL. -/
  | qStallclr (m : Master) (q : Fin 64) (v : BitVec 32)
  deriving DecidableEq, Repr

end Sys2Proof
end

