-- ==== Sys2Proof/WellFormed.lean ====
section
/-! DEFINITION. When an instruction term stands for a legal syllable (05_encoding R105 to R127), or an event
carries data of the widths its rule gives. A decoder never gives an ill-formed term. -/

namespace Sys2Proof

/-- "F" of R122: f32, bf16 and f16. -/
def ElemTy.isF : ElemTy → Bool
  | .f32 | .bf16 | .f16 => true
  | _ => false

/-- "I" of R122: i32, i16, i8 and ui8. -/
def ElemTy.isI : ElemTy → Bool
  | .i32 | .i16 | .i8 | .ui8 => true
  | _ => false

/-- The types of the element shifts (R122). -/
def ElemTy.isShift : ElemTy → Bool
  | .i32 | .i16 | .i8 | .i64 => true
  | _ => false

/-- A tile destination: every level but 11 (R110). -/
def RowSpec.isDst : RowSpec → Bool
  | .bcast _ => false
  | _ => true

/-- A main tile row: level 00 (R110). -/
def RowSpec.isTile : RowSpec → Bool
  | .row _ _ | .idx _ _ => true
  | _ => false

/-- The tile a row specifier of level 00 names. -/
def RowSpec.tile? : RowSpec → Option (Fin 16)
  | .row t _ | .idx t _ => some t
  | _ => none

/-- A guard that uses no lane mask (R122). -/
def TGuard.noMask : TGuard → Bool
  | .merge _ | .zero _ => false
  | _ => true

/-- A tile guard other than 11, as stores need it (R124). -/
def TGuard.notZero : TGuard → Bool
  | .zero _ => false
  | _ => true

/-- The control register numbers of R77. -/
def ctlListed (r : BitVec 12) : Bool :=
  let n := r.toNat
  n ≤ 0x001 || (0x010 ≤ n && n ≤ 0x017) || (0x050 ≤ n && n ≤ 0x057) || (0x060 ≤ n && n ≤ 0x063)
    || (0x070 ≤ n && n ≤ 0x07F) || (0x100 ≤ n && n ≤ 0x13F)

/-- The control registers of access RW in R77. -/
def ctlWritable (r : BitVec 12) : Bool :=
  let n := r.toNat
  n ≤ 0x001 || (0x010 ≤ n && n ≤ 0x017) || (0x100 ≤ n && n ≤ 0x13F)

/-- The byte displacement of an MT syllable: the field of 28 signed bits, or with an LX bits [63:32] and
[27:0] with [31:28] zero; a multiple of 32 (R116, R120). -/
def mtDisp (d : Word) : Bool :=
  d.toNat % 32 = 0 &&
    (d.toNat < 2 ^ 27 || 2 ^ 64 - 2 ^ 27 ≤ d.toNat || d.toNat / 2 ^ 28 % 16 = 0)

/-- A master of R26. -/
def Master.wf (m : Master) : Bool := m.id.val ≠ 0

/-- A message carries 1 to 256 data bytes (R337). -/
def LinkMsg.wf (m : LinkMsg) : Bool := 1 ≤ m.data.length && m.data.length ≤ 256

/-- How many units of a kind the module has (R13). -/
def HealthUnit.count : HealthUnit → Nat
  | .core => 832
  | .slice => 136
  | .chan => 272

/-- The MB_CMD command code of a write (R36). -/
def mbCode (v : BitVec 32) : Nat := v.toNat % 256

/-- The limits that the encoding tables, or an event's rule, set on an instruction's fields. -/
def WellFormed (i : Instr) : Bool :=
  match i with
  | .bfx _ _ _ _ p n | .bfi _ _ _ _ p n => 1 ≤ n.toNat && p.toNat + n.toNat ≤ 64
  | .rdctl _ _ r => ctlListed r
  | .wrctl _ r _ => ctlWritable r
  | .tadd _ ty _ d _ _ | .tsub _ ty _ d _ _ | .tmul _ ty _ d _ _ | .tfma _ ty _ d _ _
  | .tfms _ ty _ d _ _ => ty.isF && d.isDst
  | .tmin _ ty d _ _ | .tmax _ ty d _ _ => ty.isF && d.isDst
  | .tabs _ ty d _ | .tneg _ ty d _ => ty.isF && d.isDst
  | .tcmp g ty cc _ _ _ => g.noMask && ty.isF && (cc != .ltu) && (cc != .geu)
  | .tsel _ _ d _ _ => d.isDst
  | .tcvt _ _ _ _ d _ => d.isDst
  | .iadd _ ty d _ _ | .isub _ ty d _ _ | .imin _ ty d _ _ | .imax _ ty d _ _ =>
    (ty.isI || ty == .i64) && d.isDst
  | .imul _ ty d _ _ | .imac _ ty d _ _ | .iadds _ ty d _ _ | .isubs _ ty d _ _ => ty.isI && d.isDst
  | .iand _ d _ _ | .ior _ d _ _ | .ixor _ d _ _ => d.isDst
  | .ishl _ ty d _ _ | .ishr _ ty d _ _ | .isar _ ty d _ _ => ty.isShift && d.isDst
  | .icmp g ty _ _ _ _ => g.noMask && (ty.isI || ty == .i64)
  | .tmov _ d _ | .tzero _ d | .tperm _ d _ _ | .tsl _ d _ _ => d.isDst
  | .tiota g d => g.noMask && d.isDst
  | .tred _ ty rnd d _ => d.isDst && (ty.isF || ((ty == .i32 || ty == .i64) && rnd == .fcr))
  | .tmvs g ty _ _ lane => g.noMask && (ty == .i32 || (ty == .i64 && lane.toNat % 2 = 0))
  | .mkand g _ _ _ | .mkor g _ _ _ | .mknot g _ _ | .mkpop g _ _ | .mkset g _ _ => g.noMask
  | .accz _ _ f n _ | .accld _ _ f n _ | .accst _ _ f n _ =>
    1 ≤ n.toNat && f.val + n.toNat ≤ 32
  | .accrd _ _ _ ty _ d h =>
    (ty == .f32 || ty == .i32 || (ty == .i64 && !h)) && (d.isTile || match d with | .h _ => true | _ => false)
  | .accwr _ _ _ ty _ h => ty == .i32 || (ty == .i64 && !h)
  | .tld _ r _ disp | .tldb _ r _ disp => r.isDst && mtDisp disp
  | .tst g _ _ disp => g.notZero && mtDisp disp
  | .tldw _ r _ disp => (match r.tile? with | some t => t.val % 2 = 0 | none => false) && mtDisp disp
  | .tstw g r _ disp =>
    g.notZero && (match r.tile? with | some t => t.val % 2 = 0 | none => false) && mtDisp disp
  | .tldg _ d _ x _ =>
    (d.isTile || d == .yt) && (x.isTile || match x with | .h _ => true | _ => false)
  | .xfence _ a b => a != 0 && b != 0
  | .clusterFailure cl | .clusterPowerChange cl _ => cl < 192
  | .correctedEccEvent u n => n < u.count
  | .writeMessage _ msg | .reduceMessage _ msg | .signalMessage _ msg => msg.wf
  | .modReset m _ | .ownClaim m _ | .ownHandover m _ | .ownRelease m _ | .maintenanceWindow m _
  | .configure m _ | .destroy m _ | .resume m _ | .kill m _ | .resize m _ | .reset m _
  | .skip m _ | .flush m _ | .qPrio m _ _ | .qStallclr m _ _ | .invalidatePage m _
  | .invalidateContext m _ | .dbgUnlock m _ | .dbgTgt m _ | .debugStopRequest m _ | .lnkCtl m _ _
  | .lnkWin m _ | .registerWrite m _ _ => m.wf
  | .readBlock m v => m.wf && mbCode v = 1
  | .writeBlock m v => m.wf && mbCode v = 2
  | .readFlashLog m v => m.wf && mbCode v = 3
  | .writeImageChunk m v => m.wf && mbCode v = 4
  | .commitImageSlot m v => m.wf && mbCode v = 5
  | .mbCmdBadCommand m v => m.wf && !(1 ≤ mbCode v && mbCode v ≤ 5)
  | _ => true

end Sys2Proof
end

