-- ==== Sys2Proof/Decode.lean ====
section
/-! DEFINITION. The decoder of 05_encoding: one syllable (R105 to R127), one group (R128, R129), and the
encoder written from the same tables. -/

namespace Sys2Proof

/-- Why the decoder rejects a syllable or a group, by the subcodes of R129. -/
inductive DecodeError where
  /-- Subcode 1: an opcode, type or rounding value that the opcode map does not list. -/
  | unlisted
  /-- Subcode 2: a reserved or unused field is non-zero, or a value outside its field's limits. -/
  | field
  /-- Subcode 3: two syllables of one class. -/
  | repeatedClass
  /-- Subcode 4: a dependence within the group. -/
  | dependence
  /-- Subcode 5: an odd tile in tldw or tstw. -/
  | oddTile
  /-- Subcode 6: a misplaced LX. -/
  | longImmediate
  /-- Subcode 7: the group runs past the instruction memory or the placed code. -/
  | beyondCode
  /-- Subcode 8: an undefined specifier pattern. -/
  | specifier
  /-- The word is an LX: it is no instruction of its own (R120). -/
  | loneLX
  deriving DecidableEq, Repr

/-- The subcode of 0x01 illegal encoding. -/
def DecodeError.sub : DecodeError → Nat
  | .unlisted => 1
  | .field => 2
  | .repeatedClass => 3
  | .dependence => 4
  | .oddTile => 5
  | .longImmediate => 6
  | .beyondCode => 7
  | .specifier => 8
  | .loneLX => 6

/-- Field of `n` bits from bit `lo` up. -/
def fld (w : Nat) (lo n : Nat) : Nat := w / 2 ^ lo % 2 ^ n

/-- The class field (R105). -/
def classOf (w : Word) : Nat := fld w.toNat 60 3
/-- The stop bit (R105). -/
def stopOf (w : Word) : Bool := fld w.toNat 63 1 = 1

/-- Sign-extends `x` from its low `n` bits to 64 bits. -/
def sext64 (x n : Nat) : Word := (BitVec.ofNat n x).signExtend 64

/-! ## Specifiers -/

/-- R107. -/
def decSSrc (n : Nat) : Option SSrc :=
  if h : n < 32 then some (.reg (.s ⟨n, h⟩))
  else if h : 64 ≤ n ∧ n < 68 then some (.reg (.q ⟨n - 64, by omega⟩))
  else if n = 128 then some (.latch .ya)
  else if n = 129 then some (.latch .yb)
  else if n = 130 then some (.latch .ym)
  else if 192 ≤ n ∧ n < 256 then some (.const (BitVec.ofNat 6 (n - 192)))
  else none

def encSReg : SReg → Nat
  | .s n => n.val
  | .q n => 64 + n.val

def encSSrc : SSrc → Nat
  | .reg r => encSReg r
  | .latch .ya => 128
  | .latch .yb => 129
  | .latch .ym => 130
  | .const c => 192 + c.toNat

/-- R108. -/
def decSReg (n : Nat) : Option SReg :=
  if h : n < 32 then some (.s ⟨n, h⟩)
  else if h : 64 ≤ n ∧ n < 68 then some (.q ⟨n - 64, by omega⟩)
  else none

def decSDst (n : Nat) : Option SDst :=
  if n = 128 then some .latch else (decSReg n).map .reg

def encSDst : SDst → Nat
  | .reg r => encSReg r
  | .latch => 128

/-- R109. -/
def decGuard (n : Nat) : Option Guard :=
  if n = 0 then some none
  else if h : 8 ≤ n ∧ n < 16 then some (some ⟨n - 8, by omega⟩)
  else none

def encGuard : Guard → Nat
  | none => 0
  | some k => 8 + k.val

/-- R114, [15:12]. -/
def decTGuard (n : Nat) : Option TGuard :=
  if n = 0 then some .none
  else if h : 4 ≤ n ∧ n < 8 then some (.pred ⟨n - 4, by omega⟩)
  else if h : 8 ≤ n ∧ n < 12 then some (.merge ⟨n - 8, by omega⟩)
  else if h : 12 ≤ n ∧ n < 16 then some (.zero ⟨n - 12, by omega⟩)
  else none

def encTGuard : TGuard → Nat
  | .none => 0
  | .pred k => 4 + k.val
  | .merge k => 8 + k.val
  | .zero k => 12 + k.val

/-- R110. -/
def decRow (n : Nat) : Option RowSpec :=
  let lvl := n / 1024 % 4
  let x := n % 1024
  if lvl = 0 then
    let t : Fin 16 := ⟨x / 64 % 16, Nat.mod_lt _ (by decide)⟩
    let r := x % 64
    if h : r < 16 then some (.row t ⟨r, h⟩)
    else if h : 16 ≤ r ∧ r < 22 then some (.idx t ⟨r - 16, by omega⟩)
    else none
  else if lvl = 1 then
    if h : x < 4 then some (.h ⟨x, h⟩) else none
  else if lvl = 2 then
    if x = 0 then some .yt else none
  else if x < 256 then (decSSrc x).map .bcast else none

def encRow : RowSpec → Nat
  | .row t r => t.val * 64 + r.val
  | .idx t l => t.val * 64 + 16 + l.val
  | .h n => 1024 + n.val
  | .yt => 2048
  | .bcast s => 3072 + encSSrc s

/-- R41. -/
def decTy : Nat → Option ElemTy
  | 0 => some .i32 | 1 => some .i16 | 2 => some .i8 | 3 => some .ui8 | 4 => some .f32
  | 5 => some .bf16 | 6 => some .f16 | 7 => some .e4m3 | 8 => some .e5m2 | 9 => some .i64
  | _ => none

def encTy : ElemTy → Nat
  | .i32 => 0 | .i16 => 1 | .i8 => 2 | .ui8 => 3 | .f32 => 4
  | .bf16 => 5 | .f16 => 6 | .e4m3 => 7 | .e5m2 => 8 | .i64 => 9

def decRnd (n : Nat) : Rnd :=
  if n = 0 then .fcr else if n = 1 then .rne else if n = 2 then .rtz else .sr

def encRnd : Rnd → Nat
  | .fcr => 0 | .rne => 1 | .rtz => 2 | .sr => 3

def decCond : Nat → Option Cond
  | 0 => some .eq | 1 => some .ne | 2 => some .lt | 3 => some .ge | 4 => some .ltu | 5 => some .geu
  | _ => none

def encCond : Cond → Nat
  | .eq => 0 | .ne => 1 | .lt => 2 | .ge => 3 | .ltu => 4 | .geu => 5

def decWCond : Nat → Option WCond
  | 0 => some .eq | 1 => some .ne | 2 => some .ge | 3 => some .lt
  | _ => none

def encWCond : WCond → Nat
  | .eq => 0 | .ne => 1 | .ge => 2 | .lt => 3

def decSWidth : Nat → Option SWidth
  | 0 => some .b8 | 1 => some .b16 | 2 => some .b32
  | _ => none

def encSWidth : SWidth → Nat
  | .b8 => 0 | .b16 => 1 | .b32 => 2

/-- The staging number of stg (R121). -/
def decStage (n : Nat) : Option Stage :=
  if h : n < 8 then some (.d ⟨n, h⟩)
  else if h : 8 ≤ n ∧ n < 12 then some (.n ⟨n - 8, by omega⟩)
  else if h : 16 ≤ n ∧ n < 24 then some (.g ⟨n - 16, by omega⟩)
  else none

def encStage : Stage → Nat
  | .d n => n.val
  | .n k => 8 + k.val
  | .g n => 16 + n.val

/-- A swizzle field: [3] enable, [2:0] span; a span without the enable bit is no field (R117). -/
def decSpan (n : Nat) : Option Span :=
  if n = 0 then some none
  else if h : 8 ≤ n ∧ n < 16 then some (some ⟨n - 8, by omega⟩)
  else none

def encSpan : Span → Nat
  | none => 0
  | some k => 8 + k.val

def fin (n k : Nat) [NeZero n] : Fin n := Fin.ofNat n k

/-! ## One syllable -/

/-- The outcome of one syllable's checks, in the order of R129: subcode 1, 2, 8, 5. -/
def judge (listed fields : Bool) (i : Option Instr) (even : Bool := true) : Except DecodeError Instr :=
  if !listed then .error .unlisted
  else if !fields then .error .field
  else match i with
    | none => .error .specifier
    | some i => if even then .ok i else .error .oddTile

/-- The immediate of an SI, ML or CB syllable (R120). -/
def imm32 (f : Nat) : Option (BitVec 32) → Word
  | none => sext64 f 32
  | some hi => BitVec.ofNat 64 (hi.toNat * 2 ^ 32 + f)

/-- The displacement of an MT syllable (R120). -/
def imm28 (f : Nat) : Option (BitVec 32) → Word
  | none => sext64 f 28
  | some hi => BitVec.ofNat 64 (hi.toNat * 2 ^ 32 + f)

/-- Classes SA and SB (R121). -/
def decScalar (sl : Slot) (w : Nat) (lx : Option (BitVec 32)) : Except DecodeError Instr :=
  let sd := fld w 44 8
  let a := fld w 36 8
  let b := fld w 28 8
  let fn := fld w 0 24
  let gr := decGuard (fld w 24 4)
  let gi := decGuard (fld w 32 4)
  let imm := imm32 (fld w 0 32) lx
  let sr (mk : Guard → SDst → SSrc → SSrc → Instr) :=
    judge true (gr.isSome && fn = 0) do
      pure (mk (← gr) (← decSDst sd) (← decSSrc a) (← decSSrc b))
  let si (mk : Guard → SDst → SSrc → Word → Instr) :=
    judge true gi.isSome do pure (mk (← gi) (← decSDst sd) (← decSSrc a) imm)
  let sh (mk : Guard → SDst → SSrc → BitVec 6 → Instr) :=
    judge true (gi.isSome && imm.toNat < 64) do
      pure (mk (← gi) (← decSDst sd) (← decSSrc a) (BitVec.ofNat 6 imm.toNat))
  let un (mk : Guard → SDst → SSrc → Instr) :=
    judge true (gr.isSome && b = 0 && fn = 0) do pure (mk (← gr) (← decSDst sd) (← decSSrc a))
  let pp (mk : Guard → Fin 8 → Fin 8 → Fin 8 → Instr) :=
    judge true (gr.isSome && sd < 8 && a = 0 && b = 0 && fn < 64) do
      pure (mk (← gr) (fin 8 sd) (fin 8 (fn % 8)) (fin 8 (fn / 8 % 8)))
  match fld w 52 8 with
  | 0x00 => judge true (gr.isSome && fld w 28 24 = 0 && fn = 0) do pure (.nop sl (← gr))
  | 0x01 => sr (.add sl)
  | 0x02 => sr (.sub sl)
  | 0x04 => sr (.mul sl)
  | 0x05 => sr (.mulh sl)
  | 0x06 => sr (.mulhu sl)
  | 0x07 => sr (.and sl)
  | 0x08 => sr (.or sl)
  | 0x09 => sr (.xor sl)
  | 0x0A => sr (.andn sl)
  | 0x0B => sr (.shl sl)
  | 0x0C => sr (.shr sl)
  | 0x0D => sr (.sar sl)
  | 0x14 => sr (.min sl)
  | 0x15 => sr (.max sl)
  | 0x16 => sr (.minu sl)
  | 0x17 => sr (.maxu sl)
  | 0x20 => sr (.addw sl)
  | 0x21 => sr (.subw sl)
  | 0x22 => sr (.mulw sl)
  | 0x03 => si (.addi sl)
  | 0x11 => si (.andi sl)
  | 0x12 => si (.ori sl)
  | 0x13 => si (.xori sl)
  | 0x0E => sh (.shli sl)
  | 0x0F => sh (.shri sl)
  | 0x10 => sh (.sari sl)
  | 0x19 => un (.mov sl)
  | 0x1B => un (.clz sl)
  | 0x1C => un (.ctz sl)
  | 0x1D => un (.popc sl)
  | 0x18 => judge true (gi.isSome && a = 0) do pure (.li sl (← gi) (← decSDst sd) imm)
  | 0x1A => judge true (gr.isSome && fn < 8) do
      pure (.sel sl (← gr) (← decSDst sd) (fin 8 fn) (← decSSrc a) (← decSSrc b))
  | 0x1E => judge true (gr.isSome && b = 0 && fn < 3) do
      pure (.sext sl (← gr) (← decSDst sd) (← decSWidth fn) (← decSSrc a))
  | 0x1F => judge true (gr.isSome && b = 0 && fn < 3) do
      pure (.zext sl (← gr) (← decSDst sd) (← decSWidth fn) (← decSSrc a))
  | 0x23 => judge true (gr.isSome && fn < 8) do
      pure (.lea sl (← gr) (← decSDst sd) (← decSSrc a) (← decSSrc b) (fin 8 fn))
  | 0x24 => judge true (gr.isSome && b = 0 && fn < 2 ^ 13 && 1 ≤ fn / 64 && fn % 64 + fn / 64 ≤ 64) do
      pure (.bfx sl (← gr) (← decSDst sd) (← decSSrc a) (BitVec.ofNat 6 fn) (BitVec.ofNat 7 (fn / 64)))
  | 0x25 => judge true (gr.isSome && b = 0 && fn < 2 ^ 13 && 1 ≤ fn / 64 && fn % 64 + fn / 64 ≤ 64) do
      pure (.bfi sl (← gr) (← decSDst sd) (← decSSrc a) (BitVec.ofNat 6 fn) (BitVec.ofNat 7 (fn / 64)))
  | 0x28 => judge true (gr.isSome && fn = 0 && sd < 128 && sd / 8 < 6) do
      pure (.cmp sl (← gr) (← decCond (sd / 8)) (fin 8 (sd % 8)) (← decSSrc a) (← decSSrc b))
  | 0x29 => judge true (gi.isSome && sd < 128 && sd / 8 < 6) do
      pure (.cmpi sl (← gi) (← decCond (sd / 8)) (fin 8 (sd % 8)) (← decSSrc a) imm)
  | 0x2A => pp (.pand sl)
  | 0x2B => pp (.por sl)
  | 0x2C => pp (.pxor sl)
  | 0x2D => judge true (gr.isSome && sd < 8 && a = 0 && b = 0 && fn < 8) do
      pure (.pnot sl (← gr) (fin 8 sd) (fin 8 fn))
  | 0x2E => judge true (gr.isSome && b = 0 && fn = 0) do
      pure (.stg sl (← gr) (← decStage sd) (← decSSrc a))
  | _ => .error .unlisted

/-- Class TL (R114, R122). -/
def decTile (w : Nat) : Except DecodeError Instr :=
  let d := fld w 40 12
  let a := fld w 28 12
  let b := fld w 16 12
  let tg := decTGuard (fld w 12 4)
  let ty := decTy (fld w 8 4)
  let rr := fld w 6 2
  let fn := fld w 0 6
  let rnd := decRnd rr
  let dst := (decRow d).filter (·.isDst)
  let noMask := match tg with | some g => g.noMask | none => false
  /- a type code of 10 to 15 is subcode 2, a type the row does not list subcode 1 -/
  let tyIn (p : ElemTy → Bool) : Bool := match ty with | some t => p t | none => true
  let base := tg.isSome && ty.isSome
  let fp (mk : TGuard → ElemTy → Rnd → RowSpec → RowSpec → RowSpec → Instr) :=
    judge (tyIn ElemTy.isF) (base && fn = 0) do
      pure (mk (← tg) (← ty) rnd (← dst) (← decRow a) (← decRow b))
  let t3 (p : ElemTy → Bool) (mk : TGuard → ElemTy → RowSpec → RowSpec → RowSpec → Instr) :=
    judge (tyIn p && rr = 0) (base && fn = 0) do
      pure (mk (← tg) (← ty) (← dst) (← decRow a) (← decRow b))
  let t2 (p : ElemTy → Bool) (mk : TGuard → ElemTy → RowSpec → RowSpec → Instr) :=
    judge (tyIn p && rr = 0) (base && b = 0 && fn = 0) do
      pure (mk (← tg) (← ty) (← dst) (← decRow a))
  let isI32 (t : ElemTy) : Bool := t == .i32
  let isII64 (t : ElemTy) : Bool := t.isI || t == .i64
  match fld w 52 8 with
  | 0x01 => fp .tadd
  | 0x02 => fp .tsub
  | 0x03 => fp .tmul
  | 0x04 => fp .tfma
  | 0x05 => fp .tfms
  | 0x06 => t3 ElemTy.isF .tmin
  | 0x07 => t3 ElemTy.isF .tmax
  | 0x08 => t2 ElemTy.isF .tabs
  | 0x09 => t2 ElemTy.isF .tneg
  | 0x0A => judge (tyIn ElemTy.isF && rr = 0) (base && noMask && d = 0 && fn / 4 < 4) do
      pure (.tcmp (← tg) (← ty) (← decCond (fn / 4)) (fin 4 (fn % 4)) (← decRow a) (← decRow b))
  | 0x0B => judge (tyIn isI32 && rr = 0) (base && fn < 4) do
      pure (.tsel (← tg) (fin 4 fn) (← dst) (← decRow a) (← decRow b))
  | 0x0C => judge true (base && b = 0 && fn < 10) do
      pure (.tcvt (← tg) (← ty) (← decTy fn) rnd (← dst) (← decRow a))
  | 0x10 => t3 isII64 .iadd
  | 0x11 => t3 isII64 .isub
  | 0x12 => t3 ElemTy.isI .imul
  | 0x13 => t3 ElemTy.isI .imac
  | 0x14 => t3 ElemTy.isI .iadds
  | 0x15 => t3 ElemTy.isI .isubs
  | 0x16 => t3 isII64 .imin
  | 0x17 => t3 isII64 .imax
  | 0x18 => t3 isI32 fun g _ => .iand g
  | 0x19 => t3 isI32 fun g _ => .ior g
  | 0x1A => t3 isI32 fun g _ => .ixor g
  | 0x1B => t3 ElemTy.isShift .ishl
  | 0x1C => t3 ElemTy.isShift .ishr
  | 0x1D => t3 ElemTy.isShift .isar
  | 0x1E => judge (tyIn isII64 && rr = 0) (base && noMask && d = 0 && fn / 4 < 6) do
      pure (.icmp (← tg) (← ty) (← decCond (fn / 4)) (fin 4 (fn % 4)) (← decRow a) (← decRow b))
  | 0x20 => t2 isI32 fun g _ => .tmov g
  | 0x21 => judge (tyIn isI32 && rr = 0) (base && a = 0 && b = 0 && fn = 0) do
      pure (.tzero (← tg) (← dst))
  | 0x22 => t3 isI32 fun g _ => .tperm g
  | 0x23 => judge (tyIn isI32 && rr = 0) (base && b = 0) do
      pure (.tsl (← tg) (← dst) (← decRow a) (BitVec.ofNat 6 fn))
  | 0x24 => judge (tyIn (fun t => t.isF || ((t == .i32 || t == .i64) && rr = 0))) (base && b = 0 && fn = 0) do
      pure (.tred (← tg) (← ty) rnd (← dst) (← decRow a))
  | 0x25 => judge (tyIn (fun t => t == .i32 || t == .i64) && rr = 0)
      (base && noMask && b = 0 && !(ty == some .i64 && fn % 2 = 1)) do
      let r ← if 3072 ≤ d ∧ d < 3328 then decSReg (d - 3072) else none
      pure (.tmvs (← tg) (← ty) r (← decRow a) (BitVec.ofNat 6 fn))
  | 0x28 => judge (tyIn isI32 && rr = 0) (base && noMask && d = 0 && a = 0 && b = 0) do
      pure (.mkand (← tg) (fin 4 (fn % 4)) (fin 4 (fn / 4 % 4)) (fin 4 (fn / 16)))
  | 0x29 => judge (tyIn isI32 && rr = 0) (base && noMask && d = 0 && a = 0 && b = 0) do
      pure (.mkor (← tg) (fin 4 (fn % 4)) (fin 4 (fn / 4 % 4)) (fin 4 (fn / 16)))
  | 0x2A => judge (tyIn isI32 && rr = 0) (base && noMask && d = 0 && a = 0 && b = 0 && fn < 16) do
      pure (.mknot (← tg) (fin 4 (fn % 4)) (fin 4 (fn / 4)))
  | 0x2B => judge (tyIn isI32 && rr = 0) (base && noMask && a = 0 && b = 0 && fn / 16 = 0 && fn % 4 = 0) do
      let r ← if 3072 ≤ d ∧ d < 3328 then decSReg (d - 3072) else none
      pure (.mkpop (← tg) r (fin 4 (fn / 4)))
  | 0x2C => judge (tyIn isI32 && rr = 0) (base && noMask && d = 0 && b = 0 && fn < 4) do
      match ← decRow a with
      | .bcast s => pure (.mkset (← tg) (fin 4 fn) s)
      | _ => none
  | 0x2D => judge (tyIn isI32 && rr = 0) (base && noMask && a = 0 && b = 0 && fn = 0) do
      pure (.tiota (← tg) (← dst))
  | _ => .error .unlisted

/-- Class PL (R115, R123). -/
def decPlane (w : Nat) : Except DecodeError Instr :=
  let acc := fin 4 (fld w 50 2)
  let row := fin 32 (fld w 45 5)
  let g := decGuard (fld w 0 4)
  let ty := decTy (fld w 29 4)
  let rr := fld w 27 2
  let h : Bool := fld w 26 1 = 1
  let n := fld w 40 5 + 1
  let tyIn (p : ElemTy → Bool) : Bool := match ty with | some t => p t | none => true
  let pa := g.isSome && ty.isSome && fld w 4 22 = 0 && !(ty == some .i64 && h)
  match fld w 52 8 with
  | 0x01 => judge true (g.isSome && fld w 4 6 = 0) do
      pure (.ppac (← g) acc row (← decSSrc (fld w 37 8)) (← decSSrc (fld w 29 8)) (fin 16 (fld w 25 4))
        (fin 16 (fld w 21 4)) (fin 8 (fld w 18 3)) (fin 8 (fld w 15 3)) (fin 32 (fld w 10 5)))
  | 0x02 => judge true (g.isSome && fld w 4 20 = 0 && row.val + n ≤ 32) do
      pure (.accz (← g) acc row (BitVec.ofNat 6 n) (BitVec.ofNat 16 (fld w 24 16)))
  | 0x03 => judge (tyIn (fun t => t == .f32 || t == .i32 || t == .i64)) pa do
      let r ← decRow (fld w 33 12)
      let r ← if r.isTile || (match r with | .h _ => true | _ => false) then some r else none
      pure (.accrd (← g) acc row (← ty) (decRnd rr) r h)
  | 0x04 => judge (tyIn (fun t => t == .i32 || t == .i64)) (pa && rr = 0) do
      pure (.accwr (← g) acc row (← ty) (← decRow (fld w 33 12)) h)
  | 0x05 => judge true (g.isSome && fld w 4 28 = 0 && row.val + n ≤ 32) do
      pure (.accld (← g) acc row (BitVec.ofNat 6 n) (← decSSrc (fld w 32 8)))
  | 0x06 => judge true (g.isSome && fld w 4 28 = 0 && row.val + n ≤ 32) do
      pure (.accst (← g) acc row (BitVec.ofNat 6 n) (← decSSrc (fld w 32 8)))
  | 0x07 => judge true (g.isSome && fld w 4 20 = 0 && fld w 40 10 = 0) do
      pure (.accexp (← g) acc (BitVec.ofNat 16 (fld w 24 16)))
  | _ => .error .unlisted

/-- Class MM (R116, R124). -/
def decMem (w : Nat) (lx : Option (BitVec 32)) : Except DecodeError Instr :=
  let x := fld w 44 8
  let base := decSSrc (fld w 36 8)
  let g := decGuard (fld w 32 4)
  let disp := imm32 (fld w 0 32) lx
  let row := decRow (fld w 40 12)
  let tbase := decSSrc (fld w 32 8)
  let tg := decTGuard (fld w 28 4)
  let tdisp := imm28 (fld w 0 28) lx
  let tok := tg.isSome && fld w 0 5 = 0
  let notZero := match tg with | some g => g.notZero | none => false
  let even := match row with
    | some r => (match r.tile? with | some t => t.val % 2 = 0 | none => true)
    | none => true
  let gf := decGuard (fld w 0 4)
  let ld (mk : Guard → SDst → SSrc → Word → Instr) :=
    judge true g.isSome do pure (mk (← g) (← decSDst x) (← base) disp)
  let st (mk : Guard → SSrc → Word → SSrc → Instr) :=
    judge true g.isSome do pure (mk (← g) (← base) disp (← decSSrc x))
  match fld w 52 8 with
  | 0x01 => ld .ld8
  | 0x02 => ld .ld8u
  | 0x03 => ld .ld16
  | 0x04 => ld .ld16u
  | 0x05 => ld .ld32
  | 0x06 => ld .ld32u
  | 0x07 => ld .ld64
  | 0x08 => st .st8
  | 0x09 => st .st16
  | 0x0A => st .st32
  | 0x0B => st .st64
  | 0x10 => judge true tok do pure (.tld (← tg) (← row.filter (·.isDst)) (← tbase) tdisp)
  | 0x11 => judge true (tok && notZero) do pure (.tst (← tg) (← row) (← tbase) tdisp)
  | 0x12 => judge true tok (do pure (.tldw (← tg) (← row.filter (·.isTile)) (← tbase) tdisp)) even
  | 0x13 => judge true (tok && notZero) (do pure (.tstw (← tg) (← row.filter (·.isTile)) (← tbase) tdisp)) even
  | 0x14 => judge true (tg.isSome && fld w 2 14 = 0) do
      let d ← row
      let d ← if d.isTile || d == .yt then some d else none
      let x ← decRow (fld w 16 12)
      let x ← if x.isTile || (match x with | .h _ => true | _ => false) then some x else none
      pure (.tldg (← tg) d (← tbase) x (fin 4 (fld w 0 2)))
  | 0x15 => judge true tok do pure (.tldb (← tg) (← row.filter (·.isDst)) (← tbase) tdisp)
  | 0x18 => judge true (gf.isSome && fld w 4 38 = 0 && fld w 47 5 ≠ 0 && fld w 42 5 ≠ 0) do
      pure (.xfence (← gf) (BitVec.ofNat 5 (fld w 47 5)) (BitVec.ofNat 5 (fld w 42 5)))
  | 0x19 => judge true (gf.isSome && fld w 4 48 = 0) do pure (.rel (← gf))
  | 0x1A => judge true (gf.isSome && fld w 4 48 = 0) do pure (.wfence (← gf))
  | 0x1B => judge true (g.isSome && x = 0) do pure (.pref (← g) (← base) disp)
  | _ => .error .unlisted

/-- Class EN (R117, R125). -/
def decEngine (w : Nat) : Except DecodeError Instr :=
  let ctr := fin 16 (fld w 48 4)
  let cw : Bool := fld w 47 1 = 1
  let ret : Bool := fld w 46 1 = 1
  let red := fld w 40 4
  let ss := decSpan (fld w 36 4)
  let ds := decSpan (fld w 32 4)
  let tag := BitVec.ofNat 16 (fld w 16 16)
  let g := decGuard (fld w 0 4)
  let base := g.isSome && fld w 44 2 = 0 && fld w 4 12 = 0 && ss.isSome && ds.isSome
  let noSs : Bool := ss == some none
  let noDs : Bool := ds == some none
  match fld w 52 8 with
  | 0x01 => judge true (base && red = 0 && !ret) do pure (.cpy (← g) ctr cw tag (← ss) (← ds))
  | 0x02 => judge true (base && red < 12 && noDs) do pure (.cpya (← g) ctr cw ret (fin 12 red) tag (← ss))
  | 0x03 => judge true (base && red = 0 && !ret && noSs) do pure (.cpyp (← g) ctr cw tag (← ds))
  | 0x04 => judge true (base && red = 0 && !ret && noDs) do pure (.cpyu (← g) ctr cw tag (← ss))
  | 0x05 => judge true (base && red = 0 && !ret && noDs) do pure (.cpyl (← g) ctr cw tag (← ss))
  | 0x06 => judge true (base && red < 12 && !ret && noDs) do pure (.cpyx (← g) ctr cw (fin 12 red) tag (← ss))
  | 0x07 => judge true (base && red = 0 && !ret && noSs && noDs) do pure (.sig (← g) ctr cw tag)
  | 0x08 => judge true (base && red = 0 && !ret && noSs && noDs) do pure (.ixst (← g) ctr cw tag)
  | 0x09 => judge true (base && red = 0 && !ret && noSs && noDs) do pure (.ixend (← g) ctr cw tag)
  | 0x0A => judge true (base && red = 0 && !ret && noSs && noDs && fld w 24 8 = 0) do
      pure (.marr (← g) ctr cw (BitVec.ofNat 8 (fld w 16 8)))
  | _ => .error .unlisted

/-- Class CT (R118, R126). -/
def decControl (w : Nat) (lx : Option (BitVec 32)) : Except DecodeError Instr :=
  let gb := decGuard (fld w 48 4)
  let cb := gb.isSome && fld w 32 16 = 0
  let disp := imm32 (fld w 0 32) lx
  let gc := decGuard (fld w 32 4)
  let ct := gc.isSome && fld w 36 16 = 0
  let ct0 := ct && fld w 0 32 = 0
  let gf := decGuard (fld w 28 4)
  let num := fld w 32 12
  let x := fld w 44 8
  let cf := gf.isSome && fld w 0 28 = 0
  match fld w 52 8 with
  | 0x01 => judge true cb do pure (.br (← gb) disp)
  | 0x02 => judge true cb do pure (.call (← gb) disp)
  | 0x03 => judge true ct0 do pure (.ret (← gc))
  | 0x04 => judge true (cf && num = 0) do pure (.jmp (← gf) (← decSSrc x))
  | 0x05 => judge true (gc.isSome && fld w 36 8 = 0) do
      pure (.loop (← gc) (← decSSrc x) (BitVec.ofNat 32 (fld w 0 32)))
  | 0x06 => judge true ct0 do pure (.lexit (← gc))
  | 0x07 =>
    let g := decGuard (fld w 31 4)
    let idx := BitVec.ofNat 12 (fld w 40 12)
    if fld w 39 1 = 1 then
      judge true (g.isSome && fld w 0 31 = 0) do pure (.rcallAsync (← g) idx (fin 16 (fld w 35 4)))
    else judge true (g.isSome && fld w 0 31 = 0 && fld w 35 4 = 0) do pure (.rcall (← g) idx)
  | 0x08 => judge true ct0 do pure (.rret (← gc))
  | 0x09 =>
    let g := decGuard (fld w 18 4)
    judge true (g.isSome && fld w 0 18 = 0 && fld w 49 3 < 4) do
      pure (.wait (← g) (← decWCond (fld w 49 3)) (← decSSrc (fld w 41 8)) (← decSSrc (fld w 33 8))
        (← decSSrc (fld w 25 8)) (fin 8 (fld w 22 3)))
  | 0x0A => judge true (gc.isSome && fld w 36 4 = 0 && fld w 0 32 = 0) do
      pure (.waitc (← gc) (fin 16 (fld w 48 4)) (← decSSrc (fld w 40 8)))
  | 0x0B => judge true ct0 do pure (.bar (← gc))
  | 0x0C => judge true ct0 do pure (.yield (← gc))
  | 0x0D => judge true ct0 do pure (.halt (← gc))
  | 0x0E => judge true ct do pure (.trap (← gc) (BitVec.ofNat 32 (fld w 0 32)))
  | 0x0F => judge true ct do pure (.brk (← gc) (BitVec.ofNat 32 (fld w 0 32)))
  | 0x10 => judge true (cf && num < 8) do pure (.setfm (← gf) (fin 8 num) (← decSSrc x))
  | 0x11 => judge true (cf && num < 2) do pure (.setfcr (← gf) (num = 1) (← decSSrc x))
  | 0x12 => judge true cf do
      let r ← if ctlListed (BitVec.ofNat 12 num) then some (BitVec.ofNat 12 num) else none
      pure (.rdctl (← gf) (← decSReg x) r)
  | 0x13 => judge true cf do
      let r ← if ctlWritable (BitVec.ofNat 12 num) then some (BitVec.ofNat 12 num) else none
      pure (.wrctl (← gf) r (← decSSrc x))
  | _ => .error .unlisted

/-- Decodes one syllable, with the upper immediate word of the LX that follows it (R105 to R127). -/
def decode (w : Word) (lx : Option (BitVec 32)) : Except DecodeError Instr :=
  let n := w.toNat
  match classOf w with
  | 0 => decScalar .sa n lx
  | 1 => decScalar .sb n lx
  | 2 => decTile n
  | 3 => decMem n lx
  | 4 => decEngine n
  | 5 => decControl n lx
  | 6 => if fld n 52 8 = 0 ∧ fld n 32 20 = 0 then .error .loneLX else .error .field
  | _ => decPlane n

/-- Whether a syllable's format takes an LX: SI, ML, MT or CB (R120). -/
def extendable (w : Word) : Bool :=
  let op := fld w.toNat 52 8
  match classOf w with
  | 0 | 1 => op = 0x03 || (0x0E ≤ op && op ≤ 0x13) || op = 0x18 || op = 0x29
  | 3 => (0x01 ≤ op && op ≤ 0x0B) || (0x10 ≤ op && op ≤ 0x13) || op = 0x15 || op = 0x1B
  | 5 => op = 0x01 || op = 0x02
  | _ => false

/-! ## The encoder -/

/-- Class and opcode in the common fields of R105, the stop bit clear. -/
def top (cls op : Nat) : Nat := cls * 2 ^ 60 + op * 2 ^ 52

def slotClass : Slot → Nat
  | .sa => 0
  | .sb => 1

/-- Format SR (R112). -/
def encSR (sl : Slot) (op sd a b : Nat) (g : Guard) (fn : Nat) : List Word :=
  [BitVec.ofNat 64 (top (slotClass sl) op + sd * 2 ^ 44 + a * 2 ^ 36 + b * 2 ^ 28 + encGuard g * 2 ^ 24 + fn)]

/-- An LX syllable with the upper word of an immediate (R120). -/
def encLX (imm : Word) : Word := BitVec.ofNat 64 (top 6 0 + imm.toNat / 2 ^ 32)

/-- A syllable whose 32-bit field holds the low word of an immediate, with an LX when it does not fit (R103, R120). -/
def encImm (hi : Nat) (imm : Word) : List Word :=
  let w := BitVec.ofNat 64 (hi + imm.toNat % 2 ^ 32)
  if sext64 (imm.toNat % 2 ^ 32) 32 = imm then [w] else [w, encLX imm]

/-- Format SI (R112). -/
def encSI (sl : Slot) (op sd a : Nat) (g : Guard) (imm : Word) : List Word :=
  encImm (top (slotClass sl) op + sd * 2 ^ 44 + a * 2 ^ 36 + encGuard g * 2 ^ 32) imm

/-- Format TR (R114). -/
def encTR (op d a b : Nat) (g : TGuard) (ty : ElemTy) (rnd : Rnd) (fn : Nat) : List Word :=
  [BitVec.ofNat 64 (top 2 op + d * 2 ^ 40 + a * 2 ^ 28 + b * 2 ^ 16 + encTGuard g * 2 ^ 12
    + encTy ty * 2 ^ 8 + encRnd rnd * 2 ^ 6 + fn)]

/-- Format ML (R116). -/
def encML (op x base : Nat) (g : Guard) (disp : Word) : List Word :=
  encImm (top 3 op + x * 2 ^ 44 + base * 2 ^ 36 + encGuard g * 2 ^ 32) disp

/-- Format MT (R116, R120). -/
def encMT (op r base : Nat) (g : TGuard) (disp : Word) : List Word :=
  let w := BitVec.ofNat 64 (top 3 op + r * 2 ^ 40 + base * 2 ^ 32 + encTGuard g * 2 ^ 28 + disp.toNat % 2 ^ 28)
  if sext64 (disp.toNat % 2 ^ 28) 28 = disp then [w] else [w, encLX disp]

/-- Format EC (R117). -/
def encEC (op : Nat) (g : Guard) (ctr : Fin 16) (cw ret : Bool) (red : Nat) (ss ds : Span) (tag : Nat) : List Word :=
  [BitVec.ofNat 64 (top 4 op + ctr.val * 2 ^ 48 + cw.toNat * 2 ^ 47 + ret.toNat * 2 ^ 46 + red * 2 ^ 40
    + encSpan ss * 2 ^ 36 + encSpan ds * 2 ^ 32 + tag * 2 ^ 16 + encGuard g)]

/-- Format CB (R118). -/
def encCB (op : Nat) (g : Guard) (disp : Word) : List Word :=
  encImm (top 5 op + encGuard g * 2 ^ 48) disp

/-- Format CT (R118). -/
def encCT (op : Nat) (g : Guard) (imm : Nat) : List Word :=
  [BitVec.ofNat 64 (top 5 op + encGuard g * 2 ^ 32 + imm)]

/-- Format CF (R118). -/
def encCF (op x num : Nat) (g : Guard) : List Word :=
  [BitVec.ofNat 64 (top 5 op + x * 2 ^ 44 + num * 2 ^ 32 + encGuard g * 2 ^ 28)]

/-- The accumulator fields every plane format begins with (R115). -/
def encAcc (op : Nat) (acc : Fin 4) (r : Nat) : Nat := top 7 op + acc.val * 2 ^ 50 + r * 2 ^ 45

/-- Format PA (R115). -/
def encPA (op : Nat) (g : Guard) (acc : Fin 4) (r : Fin 32) (ty : ElemTy) (rnd : Rnd) (row : Nat) (h : Bool) : List Word :=
  [BitVec.ofNat 64 (encAcc op acc r.val + row * 2 ^ 33 + encTy ty * 2 ^ 29 + encRnd rnd * 2 ^ 27 + h.toNat * 2 ^ 26
    + encGuard g)]

/-- The words of a syllable, stop bits clear: the syllable, and its LX when it needs one. An event has no encoding. -/
def encode (i : Instr) : List Word :=
  match i with
  | .nop sl g => encSR sl 0x00 0 0 0 g 0
  | .add sl g d a b => encSR sl 0x01 (encSDst d) (encSSrc a) (encSSrc b) g 0
  | .sub sl g d a b => encSR sl 0x02 (encSDst d) (encSSrc a) (encSSrc b) g 0
  | .mul sl g d a b => encSR sl 0x04 (encSDst d) (encSSrc a) (encSSrc b) g 0
  | .mulh sl g d a b => encSR sl 0x05 (encSDst d) (encSSrc a) (encSSrc b) g 0
  | .mulhu sl g d a b => encSR sl 0x06 (encSDst d) (encSSrc a) (encSSrc b) g 0
  | .and sl g d a b => encSR sl 0x07 (encSDst d) (encSSrc a) (encSSrc b) g 0
  | .or sl g d a b => encSR sl 0x08 (encSDst d) (encSSrc a) (encSSrc b) g 0
  | .xor sl g d a b => encSR sl 0x09 (encSDst d) (encSSrc a) (encSSrc b) g 0
  | .andn sl g d a b => encSR sl 0x0A (encSDst d) (encSSrc a) (encSSrc b) g 0
  | .shl sl g d a b => encSR sl 0x0B (encSDst d) (encSSrc a) (encSSrc b) g 0
  | .shr sl g d a b => encSR sl 0x0C (encSDst d) (encSSrc a) (encSSrc b) g 0
  | .sar sl g d a b => encSR sl 0x0D (encSDst d) (encSSrc a) (encSSrc b) g 0
  | .min sl g d a b => encSR sl 0x14 (encSDst d) (encSSrc a) (encSSrc b) g 0
  | .max sl g d a b => encSR sl 0x15 (encSDst d) (encSSrc a) (encSSrc b) g 0
  | .minu sl g d a b => encSR sl 0x16 (encSDst d) (encSSrc a) (encSSrc b) g 0
  | .maxu sl g d a b => encSR sl 0x17 (encSDst d) (encSSrc a) (encSSrc b) g 0
  | .addw sl g d a b => encSR sl 0x20 (encSDst d) (encSSrc a) (encSSrc b) g 0
  | .subw sl g d a b => encSR sl 0x21 (encSDst d) (encSSrc a) (encSSrc b) g 0
  | .mulw sl g d a b => encSR sl 0x22 (encSDst d) (encSSrc a) (encSSrc b) g 0
  | .addi sl g d a imm => encSI sl 0x03 (encSDst d) (encSSrc a) g imm
  | .andi sl g d a imm => encSI sl 0x11 (encSDst d) (encSSrc a) g imm
  | .ori sl g d a imm => encSI sl 0x12 (encSDst d) (encSSrc a) g imm
  | .xori sl g d a imm => encSI sl 0x13 (encSDst d) (encSSrc a) g imm
  | .shli sl g d a n => encSI sl 0x0E (encSDst d) (encSSrc a) g (n.zeroExtend 64)
  | .shri sl g d a n => encSI sl 0x0F (encSDst d) (encSSrc a) g (n.zeroExtend 64)
  | .sari sl g d a n => encSI sl 0x10 (encSDst d) (encSSrc a) g (n.zeroExtend 64)
  | .mov sl g d a => encSR sl 0x19 (encSDst d) (encSSrc a) 0 g 0
  | .clz sl g d a => encSR sl 0x1B (encSDst d) (encSSrc a) 0 g 0
  | .ctz sl g d a => encSR sl 0x1C (encSDst d) (encSSrc a) 0 g 0
  | .popc sl g d a => encSR sl 0x1D (encSDst d) (encSSrc a) 0 g 0
  | .li sl g d imm => encSI sl 0x18 (encSDst d) 0 g imm
  | .sel sl g d p a b => encSR sl 0x1A (encSDst d) (encSSrc a) (encSSrc b) g p.val
  | .sext sl g d w a => encSR sl 0x1E (encSDst d) (encSSrc a) 0 g (encSWidth w)
  | .zext sl g d w a => encSR sl 0x1F (encSDst d) (encSSrc a) 0 g (encSWidth w)
  | .lea sl g d a b k => encSR sl 0x23 (encSDst d) (encSSrc a) (encSSrc b) g k.val
  | .bfx sl g d a p n => encSR sl 0x24 (encSDst d) (encSSrc a) 0 g (n.toNat * 64 + p.toNat)
  | .bfi sl g d a p n => encSR sl 0x25 (encSDst d) (encSSrc a) 0 g (n.toNat * 64 + p.toNat)
  | .cmp sl g cc k a b => encSR sl 0x28 (encCond cc * 8 + k.val) (encSSrc a) (encSSrc b) g 0
  | .cmpi sl g cc k a imm => encSI sl 0x29 (encCond cc * 8 + k.val) (encSSrc a) g imm
  | .pand sl g k l m => encSR sl 0x2A k.val 0 0 g (m.val * 8 + l.val)
  | .por sl g k l m => encSR sl 0x2B k.val 0 0 g (m.val * 8 + l.val)
  | .pxor sl g k l m => encSR sl 0x2C k.val 0 0 g (m.val * 8 + l.val)
  | .pnot sl g k l => encSR sl 0x2D k.val 0 0 g l.val
  | .stg sl g r a => encSR sl 0x2E (encStage r) (encSSrc a) 0 g 0
  | .br g disp => encCB 0x01 g disp
  | .call g disp => encCB 0x02 g disp
  | .ret g => encCT 0x03 g 0
  | .jmp g a => encCF 0x04 (encSSrc a) 0 g
  | .loop g a disp => [BitVec.ofNat 64 (top 5 0x05 + encSSrc a * 2 ^ 44 + encGuard g * 2 ^ 32 + disp.toNat)]
  | .lexit g => encCT 0x06 g 0
  | .rcall g idx => [BitVec.ofNat 64 (top 5 0x07 + idx.toNat * 2 ^ 40 + encGuard g * 2 ^ 31)]
  | .rcallAsync g idx ctr =>
    [BitVec.ofNat 64 (top 5 0x07 + idx.toNat * 2 ^ 40 + 2 ^ 39 + ctr.val * 2 ^ 35 + encGuard g * 2 ^ 31)]
  | .rret g => encCT 0x08 g 0
  | .wait g cc a v t k =>
    [BitVec.ofNat 64 (top 5 0x09 + encWCond cc * 2 ^ 49 + encSSrc a * 2 ^ 41 + encSSrc v * 2 ^ 33 + encSSrc t * 2 ^ 25
      + k.val * 2 ^ 22 + encGuard g * 2 ^ 18)]
  | .waitc g ctr thr => [BitVec.ofNat 64 (top 5 0x0A + ctr.val * 2 ^ 48 + encSSrc thr * 2 ^ 40 + encGuard g * 2 ^ 32)]
  | .bar g => encCT 0x0B g 0
  | .yield g => encCT 0x0C g 0
  | .halt g => encCT 0x0D g 0
  | .trap g code => encCT 0x0E g code.toNat
  | .brk g code => encCT 0x0F g code.toNat
  | .setfm g k a => encCF 0x10 (encSSrc a) k.val g
  | .setfcr g fsr a => encCF 0x11 (encSSrc a) fsr.toNat g
  | .rdctl g d r => encCF 0x12 (encSReg d) r.toNat g
  | .wrctl g r a => encCF 0x13 (encSSrc a) r.toNat g
  | .tadd g ty rnd d a b => encTR 0x01 (encRow d) (encRow a) (encRow b) g ty rnd 0
  | .tsub g ty rnd d a b => encTR 0x02 (encRow d) (encRow a) (encRow b) g ty rnd 0
  | .tmul g ty rnd d a b => encTR 0x03 (encRow d) (encRow a) (encRow b) g ty rnd 0
  | .tfma g ty rnd d a b => encTR 0x04 (encRow d) (encRow a) (encRow b) g ty rnd 0
  | .tfms g ty rnd d a b => encTR 0x05 (encRow d) (encRow a) (encRow b) g ty rnd 0
  | .tmin g ty d a b => encTR 0x06 (encRow d) (encRow a) (encRow b) g ty .fcr 0
  | .tmax g ty d a b => encTR 0x07 (encRow d) (encRow a) (encRow b) g ty .fcr 0
  | .iadd g ty d a b => encTR 0x10 (encRow d) (encRow a) (encRow b) g ty .fcr 0
  | .isub g ty d a b => encTR 0x11 (encRow d) (encRow a) (encRow b) g ty .fcr 0
  | .imul g ty d a b => encTR 0x12 (encRow d) (encRow a) (encRow b) g ty .fcr 0
  | .imac g ty d a b => encTR 0x13 (encRow d) (encRow a) (encRow b) g ty .fcr 0
  | .iadds g ty d a b => encTR 0x14 (encRow d) (encRow a) (encRow b) g ty .fcr 0
  | .isubs g ty d a b => encTR 0x15 (encRow d) (encRow a) (encRow b) g ty .fcr 0
  | .imin g ty d a b => encTR 0x16 (encRow d) (encRow a) (encRow b) g ty .fcr 0
  | .imax g ty d a b => encTR 0x17 (encRow d) (encRow a) (encRow b) g ty .fcr 0
  | .ishl g ty d a b => encTR 0x1B (encRow d) (encRow a) (encRow b) g ty .fcr 0
  | .ishr g ty d a b => encTR 0x1C (encRow d) (encRow a) (encRow b) g ty .fcr 0
  | .isar g ty d a b => encTR 0x1D (encRow d) (encRow a) (encRow b) g ty .fcr 0
  | .tabs g ty d a => encTR 0x08 (encRow d) (encRow a) 0 g ty .fcr 0
  | .tneg g ty d a => encTR 0x09 (encRow d) (encRow a) 0 g ty .fcr 0
  | .iand g d a b => encTR 0x18 (encRow d) (encRow a) (encRow b) g .i32 .fcr 0
  | .ior g d a b => encTR 0x19 (encRow d) (encRow a) (encRow b) g .i32 .fcr 0
  | .ixor g d a b => encTR 0x1A (encRow d) (encRow a) (encRow b) g .i32 .fcr 0
  | .tperm g d a b => encTR 0x22 (encRow d) (encRow a) (encRow b) g .i32 .fcr 0
  | .tcmp g ty cc k a b => encTR 0x0A 0 (encRow a) (encRow b) g ty .fcr (encCond cc * 4 + k.val)
  | .tsel g k d a b => encTR 0x0B (encRow d) (encRow a) (encRow b) g .i32 .fcr k.val
  | .tcvt g ty src rnd d a => encTR 0x0C (encRow d) (encRow a) 0 g ty rnd (encTy src)
  | .icmp g ty cc k a b => encTR 0x1E 0 (encRow a) (encRow b) g ty .fcr (encCond cc * 4 + k.val)
  | .tmov g d a => encTR 0x20 (encRow d) (encRow a) 0 g .i32 .fcr 0
  | .tzero g d => encTR 0x21 (encRow d) 0 0 g .i32 .fcr 0
  | .tsl g d a n => encTR 0x23 (encRow d) (encRow a) 0 g .i32 .fcr n.toNat
  | .tred g ty rnd d a => encTR 0x24 (encRow d) (encRow a) 0 g ty rnd 0
  | .tmvs g ty d a lane => encTR 0x25 (3072 + encSReg d) (encRow a) 0 g ty .fcr lane.toNat
  | .mkand g k l m => encTR 0x28 0 0 0 g .i32 .fcr (m.val * 16 + l.val * 4 + k.val)
  | .mkor g k l m => encTR 0x29 0 0 0 g .i32 .fcr (m.val * 16 + l.val * 4 + k.val)
  | .mknot g k l => encTR 0x2A 0 0 0 g .i32 .fcr (l.val * 4 + k.val)
  | .mkpop g d l => encTR 0x2B (3072 + encSReg d) 0 0 g .i32 .fcr (l.val * 4)
  | .mkset g k a => encTR 0x2C 0 (encRow (.bcast a)) 0 g .i32 .fcr k.val
  | .tiota g d => encTR 0x2D (encRow d) 0 0 g .i32 .fcr 0
  | .ppac g acc r a b ia ib fx fy ra =>
    [BitVec.ofNat 64 (encAcc 0x01 acc r.val + encSSrc a * 2 ^ 37 + encSSrc b * 2 ^ 29 + ia.val * 2 ^ 25 + ib.val * 2 ^ 21
      + fx.val * 2 ^ 18 + fy.val * 2 ^ 15 + ra.val * 2 ^ 10 + encGuard g)]
  | .accz g acc f n e =>
    [BitVec.ofNat 64 (encAcc 0x02 acc f.val + (n.toNat - 1) * 2 ^ 40 + e.toNat * 2 ^ 24 + encGuard g)]
  | .accrd g acc r ty rnd d h => encPA 0x03 g acc r ty rnd (encRow d) h
  | .accwr g acc r ty a h => encPA 0x04 g acc r ty .fcr (encRow a) h
  | .accld g acc f n a =>
    [BitVec.ofNat 64 (encAcc 0x05 acc f.val + (n.toNat - 1) * 2 ^ 40 + encSSrc a * 2 ^ 32 + encGuard g)]
  | .accst g acc f n a =>
    [BitVec.ofNat 64 (encAcc 0x06 acc f.val + (n.toNat - 1) * 2 ^ 40 + encSSrc a * 2 ^ 32 + encGuard g)]
  | .accexp g acc e => [BitVec.ofNat 64 (encAcc 0x07 acc 0 + e.toNat * 2 ^ 24 + encGuard g)]
  | .ld8 g d a disp => encML 0x01 (encSDst d) (encSSrc a) g disp
  | .ld8u g d a disp => encML 0x02 (encSDst d) (encSSrc a) g disp
  | .ld16 g d a disp => encML 0x03 (encSDst d) (encSSrc a) g disp
  | .ld16u g d a disp => encML 0x04 (encSDst d) (encSSrc a) g disp
  | .ld32 g d a disp => encML 0x05 (encSDst d) (encSSrc a) g disp
  | .ld32u g d a disp => encML 0x06 (encSDst d) (encSSrc a) g disp
  | .ld64 g d a disp => encML 0x07 (encSDst d) (encSSrc a) g disp
  | .st8 g a disp b => encML 0x08 (encSSrc b) (encSSrc a) g disp
  | .st16 g a disp b => encML 0x09 (encSSrc b) (encSSrc a) g disp
  | .st32 g a disp b => encML 0x0A (encSSrc b) (encSSrc a) g disp
  | .st64 g a disp b => encML 0x0B (encSSrc b) (encSSrc a) g disp
  | .tld g r a disp => encMT 0x10 (encRow r) (encSSrc a) g disp
  | .tst g r a disp => encMT 0x11 (encRow r) (encSSrc a) g disp
  | .tldw g r a disp => encMT 0x12 (encRow r) (encSSrc a) g disp
  | .tstw g r a disp => encMT 0x13 (encRow r) (encSSrc a) g disp
  | .tldb g r a disp => encMT 0x15 (encRow r) (encSSrc a) g disp
  | .tldg g d a x k =>
    [BitVec.ofNat 64 (top 3 0x14 + encRow d * 2 ^ 40 + encSSrc a * 2 ^ 32 + encTGuard g * 2 ^ 28 + encRow x * 2 ^ 16 + k.val)]
  | .xfence g a b => [BitVec.ofNat 64 (top 3 0x18 + a.toNat * 2 ^ 47 + b.toNat * 2 ^ 42 + encGuard g)]
  | .rel g => [BitVec.ofNat 64 (top 3 0x19 + encGuard g)]
  | .wfence g => [BitVec.ofNat 64 (top 3 0x1A + encGuard g)]
  | .pref g a disp => encML 0x1B 0 (encSSrc a) g disp
  | .cpy g ctr cw tag ss ds => encEC 0x01 g ctr cw false 0 ss ds tag.toNat
  | .cpya g ctr cw ret op tag ss => encEC 0x02 g ctr cw ret op.val ss none tag.toNat
  | .cpyp g ctr cw tag ds => encEC 0x03 g ctr cw false 0 none ds tag.toNat
  | .cpyu g ctr cw tag ss => encEC 0x04 g ctr cw false 0 ss none tag.toNat
  | .cpyl g ctr cw tag ss => encEC 0x05 g ctr cw false 0 ss none tag.toNat
  | .cpyx g ctr cw op tag ss => encEC 0x06 g ctr cw false op.val ss none tag.toNat
  | .sig g ctr cw tag => encEC 0x07 g ctr cw false 0 none none tag.toNat
  | .ixst g ctr cw tag => encEC 0x08 g ctr cw false 0 none none tag.toNat
  | .ixend g ctr cw tag => encEC 0x09 g ctr cw false 0 none none tag.toNat
  | .marr g ctr cw m => encEC 0x0A g ctr cw false 0 none none m.toNat
  | .resultVisible _ => []
  | .loadReply _ _ => []
  | .translationWalkComplete _ _ _ => []
  | .freezeTimeout _ => []
  | .waitSatisfied _ => []
  | .waitTimeout _ => []
  | .waitcSatisfied _ => []
  | .fenceWaitEnd _ => []
  | .preemptionIntervalExceeded _ => []
  | .preemptionStop _ => []
  | .saveComplete _ => []
  | .stopReport _ => []
  | .commandComplete _ _ => []
  | .chunkDelivery _ _ => []
  | .nativeCallComplete _ => []
  | .nativeHandover _ _ => []
  | .milestoneArrival _ _ => []
  | .logicalClockTick _ => []
  | .releaseMeetingTimeout _ => []
  | .resyncComplete _ => []
  | .orderedCommit _ => []
  | .orderedEarlyPublication _ => []
  | .seal _ _ => []
  | .launchRecord _ => []
  | .signalRecord _ => []
  | .waitRecord _ => []
  | .captureStart _ => []
  | .captureStop _ => []
  | .fenceRecord _ => []
  | .nopRecord _ => []
  | .parkedWaitPoll _ => []
  | .roundaboutFrame => []
  | .releaseStrobe _ => []
  | .launchCompletion _ => []
  | .queueStallTimeout _ => []
  | .moduleGating => []
  | .wakeSequenceComplete => []
  | .clusterPowerChange _ _ => []
  | .powerOn => []
  | .modReset _ _ => []
  | .cxlConventionalReset => []
  | .functionLevelReset _ => []
  | .securityAlarm _ => []
  | .ownClaim _ _ => []
  | .ownHandover _ _ => []
  | .handoverTimeout => []
  | .ownRelease _ _ => []
  | .ownerPathLoss => []
  | .maintenanceWindow _ _ => []
  | .correctedEccEvent _ _ => []
  | .clusterFailure _ => []
  | .readBlock _ _ => []
  | .writeBlock _ _ => []
  | .readFlashLog _ _ => []
  | .writeImageChunk _ _ => []
  | .commitImageSlot _ _ => []
  | .configure _ _ => []
  | .destroy _ _ => []
  | .resume _ _ => []
  | .kill _ _ => []
  | .resize _ _ => []
  | .reset _ _ => []
  | .contextScrubComplete _ => []
  | .skip _ _ => []
  | .flush _ _ => []
  | .qPrio _ _ _ => []
  | .invalidatePage _ _ => []
  | .invalidateContext _ _ => []
  | .invalidationComplete _ => []
  | .dbgUnlock _ _ => []
  | .dbgTgt _ _ => []
  | .debugStopRequest _ _ => []
  | .debugStop _ => []
  | .addressBreakpoint _ => []
  | .faultInjection _ => []
  | .lnkCtl _ _ _ => []
  | .lnkWin _ _ => []
  | .linkTrainingComplete _ _ => []
  | .linkTrainingTimeout _ _ => []
  | .laneErrorThreshold _ _ => []
  | .partnerSilenceTimeout _ => []
  | .linkAdmission _ _ => []
  | .writeMessage _ _ => []
  | .reduceMessage _ _ => []
  | .signalMessage _ _ => []
  | .paddingMessage _ => []
  | .negativeAcknowledgement _ _ => []
  | .chunkAccept _ _ _ _ _ => []
  | .credit _ _ => []
  | .train _ _ _ _ _ => []
  | .gate _ _ => []
  | .wakeRequest _ => []
  | .timeMessage _ _ _ => []
  | .holdoverTimeout => []
  | .registerWrite _ _ _ => []
  | .hostMemoryAccess _ _ => []
  | .unknownOpcodeRecord _ => []
  | .roundLoaded _ => []
  | .mailboxCommandComplete => []
  | .mbCmdBadCommand _ _ => []
  | .idleFlit _ _ => []
  | .qStallclr _ _ _ => []

/-- The syllable class of an instruction, as its code (R105); an event has none and answers 8. -/
def Instr.cls (i : Instr) : Nat :=
  match encode i with
  | w :: _ => classOf w
  | [] => 8

/-- Decodes the words of one syllable: the syllable and, when a second word follows, its LX. -/
def decodeWords : List Word → Except DecodeError Instr
  | [w] => decode w none
  | [w, x] =>
    if classOf x = 6 ∧ fld x.toNat 52 8 = 0 ∧ fld x.toNat 32 20 = 0 ∧ extendable w
    then decode w (some (BitVec.ofNat 32 x.toNat))
    else .error .longImmediate
  | _ => .error .longImmediate


/-! ## Groups (R65, R66, R128, R129) -/

/-- What the dependence rule of R128 counts: registers, rows, latches, accumulator rows and exponents, staging
registers, counters, and the lane LFSRs as one. -/
inductive Res where
  | sreg (r : SReg)
  | latch (l : Latch)
  | yt
  | p (k : Fin 8)
  | mk (k : Fin 4)
  | row (t r : Fin 16)
  | h (n : Fin 4)
  | acc (t : Fin 4) (r : Nat)
  | accExp (t : Fin 4)
  | stage (r : Stage)
  | ctr (n : Fin 16)
  | lfsr
  deriving DecidableEq, Repr

/-- What a syllable reads and what it writes, for R128. -/
structure Uses where
  reads : List Res
  writes : List Res
  deriving DecidableEq, Repr

def SSrc.res : SSrc → List Res
  | .reg r => [.sreg r]
  | .latch l => [.latch l]
  | .const _ => []

def SDst.res : SDst → List Res
  | .reg r => [.sreg r]
  | .latch => []

def Guard.res (g : Guard) : List Res :=
  match g with
  | none => []
  | some k => [.p k]

def TGuard.res : TGuard → List Res
  | .none => []
  | .pred k => [.p ⟨k.val, by omega⟩]
  | .merge k | .zero k => [.mk k]

/-- Every row of a tile: what tN.ij counts as (R128). -/
def wholeTile (t : Fin 16) : List Res := (List.finRange 16).map (.row t)

def RowSpec.res : RowSpec → List Res
  | .row t r => [.row t r]
  | .idx t _ => wholeTile t
  | .h n => [.h n]
  | .yt => [.yt]
  | .bcast s => s.res

/-- The row of a pair tN, t(N+1) (R196). -/
def RowSpec.pairRes : RowSpec → List Res
  | .row t r => [.row t r, .row (t + 1) r]
  | .idx t _ => wholeTile t ++ wholeTile (t + 1)
  | _ => []

def slotLatch : Slot → Latch
  | .sa => .ya
  | .sb => .yb

/-- Whether a syllable's rounding field makes it round stochastically; `fsr` says whether fcr[1:0] is 10 (R53). -/
def Rnd.stochastic (fcrSr : Bool) : Rnd → Bool
  | .sr => true
  | .fcr => fcrSr
  | _ => false

def lfsrRes (b : Bool) : List Res := if b then [.lfsr] else []

/-- A scalar result: the destination and the slot's latch (R75). -/
def usesS (sl : Slot) (g : Guard) (d : SDst) (r : List Res) : Uses :=
  ⟨g.res ++ r, .latch (slotLatch sl) :: d.res⟩

/-- A tile row result: the row and yt (R75). -/
def usesT (g : TGuard) (d : RowSpec) (r : List Res) : Uses :=
  ⟨g.res ++ r, if d = .yt then [.yt] else .yt :: d.res⟩

/-- A tile row result of a syllable that rounds (R128). -/
def usesR (fcrSr : Bool) (g : TGuard) (rnd : Rnd) (d : RowSpec) (r : List Res) : Uses :=
  let l := lfsrRes (rnd.stochastic fcrSr)
  ⟨g.res ++ r ++ l, (if d = .yt then [.yt] else .yt :: d.res) ++ l⟩

/-- An engine command reads d0 to d7 and names a counter (R128). -/
def usesE (g : Guard) (ctr : Fin 16) (more : List Res) : Uses :=
  ⟨g.res ++ .ctr ctr :: (List.finRange 8).map (fun k => .stage (.d k)) ++ more, [.ctr ctr]⟩

def stageN : List Res := (List.finRange 4).map fun k => .stage (.n k)
def stageG : List Res := (List.finRange 8).map fun k => .stage (.g k)

def accRows (t : Fin 4) (f n : Nat) : List Res := (List.range n).map fun k => .acc t (f + k)

/-- The control registers that R128 counts: LFSRs and counters. -/
def ctlRes (r : BitVec 12) : List Res :=
  if 0x100 ≤ r.toNat then [.lfsr]
  else if 0x070 ≤ r.toNat ∧ r.toNat < 0x080 then [.ctr (fin 16 r.toNat)] else []

/-- The reads and writes of a syllable under R128. `fcrSr` says whether fcr[1:0] is 10 in the issue cycle. -/
def uses (fcrSr : Bool) (i : Instr) : Uses :=
  match i with
  | .nop _ g => ⟨g.res, []⟩
  | .add sl g d a b => usesS sl g d (a.res ++ b.res)
  | .sub sl g d a b => usesS sl g d (a.res ++ b.res)
  | .mul sl g d a b => usesS sl g d (a.res ++ b.res)
  | .mulh sl g d a b => usesS sl g d (a.res ++ b.res)
  | .mulhu sl g d a b => usesS sl g d (a.res ++ b.res)
  | .and sl g d a b => usesS sl g d (a.res ++ b.res)
  | .or sl g d a b => usesS sl g d (a.res ++ b.res)
  | .xor sl g d a b => usesS sl g d (a.res ++ b.res)
  | .andn sl g d a b => usesS sl g d (a.res ++ b.res)
  | .shl sl g d a b => usesS sl g d (a.res ++ b.res)
  | .shr sl g d a b => usesS sl g d (a.res ++ b.res)
  | .sar sl g d a b => usesS sl g d (a.res ++ b.res)
  | .min sl g d a b => usesS sl g d (a.res ++ b.res)
  | .max sl g d a b => usesS sl g d (a.res ++ b.res)
  | .minu sl g d a b => usesS sl g d (a.res ++ b.res)
  | .maxu sl g d a b => usesS sl g d (a.res ++ b.res)
  | .addw sl g d a b => usesS sl g d (a.res ++ b.res)
  | .subw sl g d a b => usesS sl g d (a.res ++ b.res)
  | .mulw sl g d a b => usesS sl g d (a.res ++ b.res)
  | .addi sl g d a _ => usesS sl g d a.res
  | .andi sl g d a _ => usesS sl g d a.res
  | .ori sl g d a _ => usesS sl g d a.res
  | .xori sl g d a _ => usesS sl g d a.res
  | .shli sl g d a _ => usesS sl g d a.res
  | .shri sl g d a _ => usesS sl g d a.res
  | .sari sl g d a _ => usesS sl g d a.res
  | .mov sl g d a => usesS sl g d a.res
  | .clz sl g d a => usesS sl g d a.res
  | .ctz sl g d a => usesS sl g d a.res
  | .popc sl g d a => usesS sl g d a.res
  | .li sl g d _ => usesS sl g d []
  | .sel sl g d p a b => usesS sl g d (.p p :: a.res ++ b.res)
  | .sext sl g d _ a | .zext sl g d _ a => usesS sl g d a.res
  | .lea sl g d a b _ => usesS sl g d (a.res ++ b.res)
  | .bfx sl g d a _ _ => usesS sl g d a.res
  | .bfi sl g d a _ _ =>
    usesS sl g d (a.res ++ match d with | .reg r => [.sreg r] | .latch => [.latch (slotLatch sl)])
  | .cmp _ g _ k a b => ⟨g.res ++ a.res ++ b.res, [.p k]⟩
  | .cmpi _ g _ k a _ => ⟨g.res ++ a.res, [.p k]⟩
  | .pand _ g k l m | .por _ g k l m | .pxor _ g k l m => ⟨g.res ++ [.p l, .p m], [.p k]⟩
  | .pnot _ g k l => ⟨g.res ++ [.p l], [.p k]⟩
  | .stg sl g r a => ⟨g.res ++ a.res, [.latch (slotLatch sl), .stage r]⟩
  | .br g _ | .call g _ | .ret g | .lexit g | .rret g | .bar g | .yield g | .halt g | .trap g _ | .brk g _ =>
    ⟨g.res, []⟩
  | .jmp g a | .loop g a _ => ⟨g.res ++ a.res, []⟩
  | .rcall g _ => ⟨g.res ++ stageG, []⟩
  | .rcallAsync g _ ctr => ⟨g.res ++ .ctr ctr :: stageG, [.ctr ctr]⟩
  | .wait g _ a v t k =>
    ⟨g.res ++ a.res ++ v.res ++ t.res, if t = .const 0 then [] else [.p k]⟩
  | .waitc g ctr thr => ⟨g.res ++ .ctr ctr :: thr.res, [.ctr ctr]⟩
  | .setfm g _ a | .setfcr g _ a => ⟨g.res ++ a.res, []⟩
  | .rdctl g d r => ⟨g.res ++ ctlRes r, .sreg d :: ctlRes r⟩
  | .wrctl g r a => ⟨g.res ++ a.res ++ ctlRes r, ctlRes r⟩
  | .tadd g _ rnd d a b | .tsub g _ rnd d a b | .tmul g _ rnd d a b => usesR fcrSr g rnd d (a.res ++ b.res)
  | .tfma g _ rnd d a b | .tfms g _ rnd d a b => usesR fcrSr g rnd d (a.res ++ b.res ++ d.res)
  | .tmin g _ d a b | .tmax g _ d a b => usesT g d (a.res ++ b.res)
  | .tabs g _ d a | .tneg g _ d a => usesT g d a.res
  | .tcmp g _ _ k a b | .icmp g _ _ k a b => ⟨g.res ++ a.res ++ b.res, [.mk k]⟩
  | .tsel g k d a b => usesT g d (.mk k :: a.res ++ b.res)
  | .tcvt g _ _ rnd d a => usesR fcrSr g rnd d a.res
  | .iadd g _ d a b | .isub g _ d a b | .imul g _ d a b | .iadds g _ d a b | .isubs g _ d a b
  | .imin g _ d a b | .imax g _ d a b | .ishl g _ d a b | .ishr g _ d a b | .isar g _ d a b =>
    usesT g d (a.res ++ b.res)
  | .imac g _ d a b => usesT g d (a.res ++ b.res ++ d.res)
  | .iand g d a b | .ior g d a b | .ixor g d a b | .tperm g d a b => usesT g d (a.res ++ b.res)
  | .tmov g d a => usesT g d a.res
  | .tzero g d | .tiota g d => usesT g d []
  | .tsl g d a _ => usesT g d a.res
  | .tred g ty rnd d a => if ty.isF then usesR fcrSr g rnd d a.res else usesT g d a.res
  | .tmvs g _ d a _ => ⟨g.res ++ a.res, [.sreg d]⟩
  | .mkand g k l m | .mkor g k l m => ⟨g.res ++ [.mk l, .mk m], [.mk k]⟩
  | .mknot g k l => ⟨g.res ++ [.mk l], [.mk k]⟩
  | .mkpop g d l => ⟨g.res ++ [.mk l], [.sreg d]⟩
  | .mkset g k a => ⟨g.res ++ a.res, [.mk k]⟩
  | .ppac g acc r a b _ _ _ _ _ => ⟨g.res ++ a.res ++ b.res ++ [.acc acc r.val, .accExp acc], [.acc acc r.val]⟩
  | .accz g acc f n _ => ⟨g.res, .accExp acc :: accRows acc f.val n.toNat⟩
  | .accrd g acc r _ rnd d _ =>
    let l := lfsrRes (rnd.stochastic fcrSr)
    ⟨g.res ++ [.acc acc r.val, .accExp acc] ++ l, d.res ++ l⟩
  | .accwr g acc r _ a _ => ⟨g.res ++ a.res, [.acc acc r.val]⟩
  | .accld g acc f n a => ⟨g.res ++ a.res, accRows acc f.val n.toNat⟩
  | .accst g acc f n a => ⟨g.res ++ a.res ++ accRows acc f.val n.toNat, []⟩
  | .accexp g acc _ => ⟨g.res ++ .accExp acc :: accRows acc 0 32, .accExp acc :: accRows acc 0 32⟩
  | .ld8 g d a _ | .ld8u g d a _ | .ld16 g d a _ | .ld16u g d a _ | .ld32 g d a _ | .ld32u g d a _
  | .ld64 g d a _ => ⟨g.res ++ a.res, .latch .ym :: d.res⟩
  | .st8 g a _ b | .st16 g a _ b | .st32 g a _ b | .st64 g a _ b => ⟨g.res ++ a.res ++ b.res, []⟩
  | .tld g r a _ | .tldb g r a _ => ⟨g.res ++ a.res, r.res⟩
  | .tst g r a _ => ⟨g.res ++ a.res ++ r.res, []⟩
  | .tldw g r a _ => ⟨g.res ++ a.res, r.pairRes⟩
  | .tstw g r a _ => ⟨g.res ++ a.res ++ r.pairRes, []⟩
  | .tldg g d a x _ => ⟨g.res ++ a.res ++ x.res, d.res⟩
  | .xfence g _ _ | .rel g | .wfence g => ⟨g.res, []⟩
  | .pref g a _ => ⟨g.res ++ a.res, []⟩
  | .cpy g ctr _ _ _ _ | .cpya g ctr _ _ _ _ _ | .cpyp g ctr _ _ _ | .cpyu g ctr _ _ _ | .cpyl g ctr _ _ _
  | .cpyx g ctr _ _ _ _ | .sig g ctr _ _ | .marr g ctr _ _ => usesE g ctr []
  | .ixst g ctr _ _ | .ixend g ctr _ _ => usesE g ctr stageN
  | _ => ⟨[], []⟩

/-- Whether two syllables of one group conflict: one writes what the other reads or writes (R66). -/
def Uses.conflict (x y : Uses) : Bool :=
  x.writes.any (fun r => y.reads.contains r || y.writes.contains r) || y.writes.any (fun r => x.reads.contains r)

/-- A syllable of a decoded group: its class, whether an LX extends it, and its instruction. -/
structure Syl where
  cls : Nat
  ext : Bool
  instr : Instr
  deriving DecidableEq, Repr

/-- A decode fault with the class of the syllable at fault (R129). -/
structure GroupFault where
  err : DecodeError
  cls : Nat
  deriving DecidableEq, Repr

/-- The syllables of a group in emission order, each with its own checks (R129 step 2). LX syllables are kept
apart as `none` until step 3. -/
def decodeEach : List Word → Except GroupFault (List (Word × Option Instr))
  | [] => .ok []
  | w :: rest =>
    let lx : Option (BitVec 32) := match rest with
      | x :: _ => if classOf x = 6 ∧ extendable w then some (BitVec.ofNat 32 x.toNat) else none
      | [] => none
    match decode w lx with
    | .ok i => (decodeEach rest).map ((w, some i) :: ·)
    | .error .loneLX => (decodeEach rest).map ((w, none) :: ·)
    | .error e => .error ⟨e, classOf w⟩

/-- R129 step 3: every LX directly follows an extendable syllable, and a group holds at most one (R120). -/
def lxFault (prev : Option Word) (seen : Bool) : List (Word × Option Instr) → Bool
  | [] => false
  | (w, none) :: rest =>
    (match prev with | some p => !extendable p | none => true) || seen || lxFault (some w) true rest
  | (w, some _) :: rest => lxFault (some w) seen rest

/-- Pairs each syllable with whether an LX follows it, dropping the LX entries. -/
def attach : List (Word × Option Instr) → List Syl
  | [] => []
  | (_, none) :: rest => attach rest
  | (w, some i) :: rest =>
    ⟨classOf w, (match rest with | (_, none) :: _ => true | _ => false), i⟩ :: attach rest

/-- R129 step 4: the class of the first syllable that repeats an earlier one's class. -/
def repeatFault (seen : List Nat) : List Syl → Option Nat
  | [] => none
  | s :: rest => if seen.contains s.cls then some s.cls else repeatFault (s.cls :: seen) rest

/-- R129 step 5: the class of the first syllable that conflicts with an earlier one. -/
def dependFault (fcrSr : Bool) (seen : List Uses) : List Syl → Option Nat
  | [] => none
  | s :: rest =>
    let u := uses fcrSr s.instr
    if seen.any (·.conflict u) then some s.cls else dependFault fcrSr (u :: seen) rest

/-- Decodes the words of one group, in the order of R129 (subcode 7 is the sequencer's, which finds the words). -/
def decodeGroup (fcrSr : Bool) (ws : List Word) : Except GroupFault (List Syl) :=
  match decodeEach ws with
  | .error f => .error f
  | .ok l =>
    if lxFault none false l then .error ⟨.longImmediate, 6⟩
    else
      let g := attach l
      match repeatFault [] g with
      | some c => .error ⟨.repeatedClass, c⟩
      | none =>
        match dependFault fcrSr [] g with
        | some c => .error ⟨.dependence, c⟩
        | none => .ok g

/-- The stop bit set on a word (R105). -/
def withStop (w : Word) : Word := w ||| BitVec.ofNat 64 (2 ^ 63)

/-- A one-instruction group: the instruction's words with the stop bit on the last (R102). -/
def groupWords (i : Instr) : List Word :=
  match encode i with
  | [w] => [withStop w]
  | [w, x] => [w, withStop x]
  | _ => []

/-- The instruction the decoder reads from a word of `nbits` bits, the rest zero: one syllable of 64 bits with,
above it, an LX when the word is longer. -/
def decodeTableWord (nbits w : Nat) : Option Instr :=
  let x := w % 2 ^ nbits
  let lo := BitVec.ofNat 64 x
  let hi := BitVec.ofNat 64 (x / 2 ^ 64)
  match decodeWords (if hi = 0 then [lo] else [lo, hi]) with
  | .ok i => some i
  | .error _ => none

end Sys2Proof
end

