-- ==== Sys2Proof/Config.lean ====
section
/-! DEFINITION. What the spec leaves to an implementation or leaves open: opaque constants, of which nothing can be
proved (notes/assumptions 2 and 5). -/

namespace Sys2Proof.Config

/-- The k-th random value of MB_NONCE (R36). -/
opaque nonce : Nat → Word

/-- The build number of the running executive image, EXE_BUILD (R291). -/
opaque buildNumber : BitVec 32

/-- What a read of a register returns whose write is a command (MOD_RESET, CTX_CMD, DBG_UNLOCK, DBG_CTL, OWN_HANDOVER,
OWN_RELEASE), by its address and the time: the spec gives it no value (notes/assumptions 39). -/
opaque commandRead : Nat → Nat → Word

/-- Whether a signature by a key verifies over bytes: signer, key bytes, message, signature (R35; ECDSA over P-384
with SHA-384). The arithmetic of the signature is not modelled. -/
opaque sigVerifies : Nat → List Byte → List Byte → List Byte → Bool

/-- Whether the bytes of an image slot authenticate against the Hokural key or the owner key (R25 step 1). -/
opaque imageAuthentic : List Byte → List Byte → Bool

/-- The distance table: access latency in cycles from a physical core to a physical slice (R17). -/
opaque distance : Nat → Nat → Byte

/-- The bytes of the shipped flash: image slot contents by slot, and configuration block bytes by type (R35). -/
opaque shippedImage : Nat → List Byte
opaque shippedBlock : Nat → List Byte

/-- What the payload of a spare-map block says (R35; its layout is not given): the retired physical units, each with its kind (0 a
core, 1 a slice, 2 a channel), and which unit of its die or stack a logical
unit asks for at the start, by kind and logical number. -/
opaque spareRetired : List Byte → List (Nat × Nat)
opaque spareStart : List Byte → Nat → Nat → Nat

/-- A free value where the spec states an effect and not the value (notes/assumptions 2). -/
opaque freeByte : Nat → Byte

/-- Whether a reduction at a remote port flushes subnormals: the message header of R337 does not carry fcr[2] (by chunk
sequence; notes/assumptions 2). -/
opaque remoteFtz : BitVec 32 → Bool

/-- How many compute cycles after a write of the own scratchpad a path that nothing orders after it first reads its byte (R247; by the
cycle of the write, the launch, the task, the replica, the order and the address of the write, and the path; notes/assumptions 14). -/
opaque seenAfter : List Nat → Nat

/-- Lane symbol errors of a link in a millisecond, as the electrical layer counts them (R343; by link, lane and millisecond). -/
opaque laneErrors : Nat → Nat → Nat → BitVec 32

/-- The octets of a 1588 message that a boundary clock sends, by kind (0 Sync, 1 Pdelay_Resp, 2 Announce, 3 Pdelay_Req) and by what
it says (R337, R339: IEEE 1588 gives the layout; notes/assumptions 58). -/
opaque timeOctets : Nat → List Word → List Byte

/-- Whether a link's port sends a time message of a kind in a millisecond (R339 names the messages and no interval;
notes/assumptions 58). -/
opaque timeDue : Nat → Nat → Nat → Bool

/-- The 1588 clock identity formed from ID_DEVICE and the module serial number, and the quality of the module's clock, lower the
better (R339: how they are formed is not given). -/
opaque clockIdentity : Nat → List Byte → Word
opaque clockQuality : Word

/-- How many iterations a native unit has completed at the boundary it reaches when its task stops (R232; by time and core;
notes/assumptions 2). -/
opaque unitProgress : Nat → Nat

/-- A byte of a saved wait comparator that records a marr: the address of its completion word, the word's value, and the byte of
the sixteen (R84, R322: the entry's layout is not given). -/
opaque comparatorByte : Nat → Nat → Nat → Byte

/-- A byte of the pipeline snapshot header beyond its count of entries: the pending control writes, each by register, value, remaining
cycles and order, and the byte (R85: the layout is not given). -/
opaque snapshotWrites : List (Nat × Nat × Nat × Nat) → Nat → Byte

/-- A byte of a snapshot entry's descriptor: its destination, its issue order and its remaining cycles, and the byte of the sixteen
(R85, R87: the layout is not given). -/
opaque entryDescriptor : List Nat → Nat → Nat → Nat → Byte

/-- How long a lane swap takes, in nanoseconds; R338 bounds it (by time; notes/assumptions 2). -/
opaque swapTime : Nat → Nat

end Sys2Proof.Config
end

