-- ==== Sys2Proof/Machine/State.lean ====
section
/-! DEFINITION. The state of the module as plain data, and its value right after power-on reset. INVENTORY.md lists
every field with its rule. Unlisted keys of an FMap read as the default its accessor in Machine/Ops.lean names. -/

namespace Sys2Proof.Machine

/-- Memory: address and byte, in the canonical form of Memory.wf (Machine/Ops.lean). -/
abbrev Memory := List Host.Cell

/-- The six flags of fsr, bit by bit as R48 numbers them. -/
abbrev Flags := BitVec 6

/-! ## The task -/

/-- One level of the loop stack (R84, R140). -/
structure LoopEnt where
  count : Nat
  idx : Nat
  first : Nat
  last : Nat
  deriving DecidableEq, Repr

/-- One entry of the call stack (R139). -/
structure CallEnt where
  level : Nat
  depth : Nat
  ret : Nat
  deriving DecidableEq, Repr

/-- The banked registers of one routine level (R74, R87); loops are innermost first. -/
structure Bank where
  s : FMap Word
  q : FMap Word
  ya : Word
  yb : Word
  ym : Word
  yt : Row
  p : FMap Bool
  loops : List LoopEnt
  deriving DecidableEq, Repr

/-- One clause of a routine's contract (R295); programs are the postfix bytes. -/
inductive Clause where
  | sregs (mask : BitVec 16)
  | rows (mask : BitVec 256) (h : BitVec 4)
  | accs (mask : BitVec 4)
  | scratch (start len : List Byte)
  | flags (f : Flags)
  | lfsr (first last : Nat)
  deriving DecidableEq, Repr

/-- A catalogue entry (R228). -/
inductive Native where
  | pmmBlk | dot4 | rcp | rsqrt | exp2
  deriving DecidableEq, Repr

/-- A routine of the loaded kernel (R220, R294): where its body stands in instruction memory, its latency header, its
contract, and the catalogue entry it matches. -/
structure Routine where
  base : Nat
  len : Nat
  lat : List Nat
  pmask : Byte
  level : Nat
  cycles : Nat
  clauses : List Clause
  unit : Option Native
  bound : Bool
  deriving DecidableEq, Repr

/-- A tile row by its place, the loop index resolved (R155). -/
inductive RowAt where
  | tile (t r : Nat)
  | h (n : Nat)
  | yt
  deriving DecidableEq, Repr

/-- A rounding mode in force (R45). -/
inductive RMode where
  | rne | rtz | sr
  deriving DecidableEq, Repr

/-- A load as it issued (R192, R196, R197): the level, a scalar destination (none: ym alone) or the rows of its lanes,
the enabled lanes, whether excluded lanes become zero, the bytes of each unit, its sign rule, and the addresses of the
units in lane order. -/
structure LoadReq where
  lvl : Nat
  dst : Option SReg
  row : Option RowAt
  pair : Option RowAt
  lanes : Word
  zero : Bool
  size : Nat
  signed : Bool
  addrs : List Nat
  deriving DecidableEq, Repr

/-- What a fixed-latency result does when it becomes visible (R70, R79, R174); `lvl` is the routine level whose bank
it is bound to (R224). `planeBytes` is an accst that has landed beside a native call whose definition, handed over, still has it in
flight (R231): its bytes. -/
inductive Eff where
  | sreg (lvl : Nat) (d : Option SReg) (l : Option Latch) (v : Word)
  | pred (lvl : Nat) (k : Fin 8) (b : Bool)
  | mask (k : Fin 4) (v : Word)
  | stage (r : Stage) (v : Word)
  | row (lvl : Nat) (d : RowAt) (yt : Bool) (lanes : Word) (v : Row)
  | ppac (acc : Fin 4) (r : Nat) (v e : List Int)
  | accz (acc : Fin 4) (f n : Nat) (e : BitVec 16)
  | accrd (acc : Fin 4) (r : Nat) (ty : ElemTy) (mode : RMode) (ftz : Bool) (d : RowAt) (half : Bool)
      (lfsr : List (BitVec 32))
  | accwr (acc : Fin 4) (r : Nat) (v : List Word)
  | accld (acc : Fin 4) (f : Nat) (v : List Word)
  | accst (acc : Fin 4) (f n addr : Nat)
  | planeBytes (addr : Nat) (bs : List Byte)
  | accexp (acc : Fin 4) (e : BitVec 16)
  | fcr (v : BitVec 3)
  | fsr (v : Flags)
  | fm (k : Fin 8) (v : Word)
  | load (q : LoadReq) (vals : List Nat)
  | loadBad (q : LoadReq) (addr : Nat)
  deriving DecidableEq, Repr

/-- A result in flight: core cycles until it becomes visible and until it exists (R70, R71), its issue order, the
flags it raises, the mask of flags it may record (R223), and its effect. -/
structure Pend where
  left : Nat
  real : Nat
  ord : Nat
  flags : Flags
  record : Flags
  eff : Eff
  deriving DecidableEq, Repr

/-- A scoreboarded load (R72): its order, its request, the value bound for each unit, the first byte of an
uncorrectable sector it met (R195), and whether its reply has arrived. -/
structure Load where
  ord : Nat
  req : LoadReq
  vals : List Nat
  bad : Option Nat
  arrived : Bool
  deriving DecidableEq, Repr

/-- The operation of an engine command, in the order of the EN opcodes (R125). -/
inductive EngOp where
  | cpy | cpya | cpyp | cpyu | cpyl | cpyx | sig | ixst | ixend | marr
  deriving DecidableEq, Repr

/-- An engine command (R203, R204): its EC fields, the captured registers, and its progress in units (R217). `pub`: published
from a held set, it executes once for every replica; `met`: a marr whose meeting has closed, it arrives once for the task
(R370); `reason`: why it has faulted (R209). A marr has one unit, delivered when it arrives; it leaves the queue when its milestone fires. `index` is the index word
of the row in progress (R216); `ahead`: the units of a link command acknowledged beyond one that was refused, which are not sent
again (R336). -/
structure Cmd where
  op : EngOp
  ctr : Nat
  cw : Bool
  ret : Bool
  red : Nat
  ss : Span
  ds : Span
  tag : BitVec 16
  d : List Word
  n : List Word
  ftz : Bool
  ord : Nat
  held : Bool
  running : Bool
  units : Nat
  bytes : Nat
  total : Nat
  counted : Nat
  acked : Nat
  flags : Flags
  lfsr : BitVec 32
  met : Bool
  faulted : Bool
  reason : Nat
  index : Option Nat
  pub : Bool
  ahead : List Nat
  deriving DecidableEq, Repr

/-- A release kind (R366). -/
inductive Release where
  | rel | marr | halt | implicit
  deriving DecidableEq, Repr

/-- What a task waits for inside an issued group (R345). -/
inductive Wait where
  | word (addr : Nat) (cc : WCond) (v : BitVec 32) (timed : Bool) (left : Nat) (k : Fin 8)
  | ctr (n : Nat) (thr : Nat)
  | bar
  | barLeft (at_ : Nat)
  | fence (a b : BitVec 5) (ord : Nat)
  | rel (ord : Nat)
  | wfence (ord : Nat)
  | meet (kind : Release)
  | halt
  | native
  deriving DecidableEq, Repr

/-- A task's state (R84, R307). -/
inductive TaskSt where
  | placed | loaded | released | running | waiting | stopping | saved | faulted | halted
  deriving DecidableEq, Repr

/-- What a trap reports (R345): cause, subcode, class of the syllable, xval, and the engine or walk reason (R349). -/
structure Trap where
  cause : Nat
  sub : Nat
  cls : Nat
  val : Word
  reason : Nat
  deriving DecidableEq, Repr

/-- Why a group does not issue after all: an effect beyond the held set (R364), a full command queue or a busy
index engine (R203), the routine queue (R225), a seventh marr (R322), or a plane read of an uncorrectable sector, whose 0x0E stands
before the group (R195, R345). -/
inductive Back where
  | heldSet | queue | routine | marr
  | memory (addr : Nat)
  deriving DecidableEq, Repr

/-- The group in issue: its start, the index after it, the classes present, the class an LX extends, the classes that
trapped, the first trap by class, a trap or brk, the transfer its control syllable takes, what holds it back, and the core
cycle it issued in. -/
structure Group where
  start : Nat
  next : Nat
  present : BitVec 8
  lx : Option Nat
  failed : BitVec 8
  trap : Option Trap
  soft : Option Trap
  xfer : Option Nat
  back : Option Back
  halting : Bool
  issued : Bool
  cycle : Nat
  deriving DecidableEq, Repr

/-- An active routine level (R84, R144, R224): the routine, the return index, the caller's bank and latency header,
the counter of an asynchronous call, and the evaluated scratch ranges. A handed-over call also keeps the caller's control
registers, when it is asynchronous, and the done syllables of the group it returns to, with whether that group has
counted and its kept choice (R231, R233); `flags` are those that the levels active at its call let it record (R223). -/
structure Frame where
  idx : Nat
  ret : Nat
  bank : Bank
  lat : List Nat
  async : Option Nat
  ranges : List (Nat × Nat)
  saved : Option (BitVec 3 × FMap Word)
  flags : Flags
  back : Option (BitVec 8 × Bool × Option Group)
  deriving DecidableEq, Repr

/-- A held sector (R363): byte mask and written bytes. -/
structure HeldSector where
  mask : BitVec 32
  data : BitVec 256
  deriving DecidableEq, Repr

/-- A line of the lease cache: its place in the cache portion, counted down from 1 MiB (R82, R312), its bytes and the last
tick of its lease (R252). -/
structure Lease where
  line : Nat
  slot : Nat
  data : BitVec 1024
  last : Nat
  deriving DecidableEq, Repr

/-- Who the task is (R77, R305, R313): the core that holds it, the CORE_ID of its first placement, and the rest. -/
structure Ident where
  core : Nat
  cidBase : Nat
  ctx : Nat
  launch : Nat
  idx : Nat
  cnt : Nat
  gidx : Nat
  cidx : Nat
  replica : Nat
  copies : Nat
  ordered : Bool
  base : Word
  deriving DecidableEq, Repr

/-- What the loader placed for the task (R69, R301): instruction memory, lengths, routines, the latency header in force and the kernel header. -/
structure Code where
  imem : FMap Word
  textLen : Nat
  codeLen : Nat
  routines : List Routine
  lat : List Nat
  nTiles : Nat
  nAccs : Nat
  share : Nat
  groupSize : Nat
  interval : Nat
  deriving DecidableEq, Repr

/-- The registers of a task (R74 to R79). -/
structure Regs where
  pc : Nat
  s : FMap Word
  p : FMap Bool
  b : Bank
  mks : FMap Word
  tiles : FMap Row
  h : FMap Row
  acc : FMap Word
  accExp : FMap (BitVec 16)
  calls : List CallEnt
  frames : List Frame
  fm : FMap Word
  w : FMap (BitVec 32)
  dreg : FMap Word
  nreg : FMap Word
  greg : FMap Word
  fcr : BitVec 3
  fsr : Flags
  lfsr : FMap (BitVec 32)
  lcycle : Word
  xpc : Word
  xcause : BitVec 32
  xval : Word
  xmask : BitVec 32
  deriving DecidableEq, Repr

/-- The pipeline and what holds the task (R67 to R73, R78, R85, R137, R315). `seen` is the compute cycle of the module
the core last moved in (the model's own); `kept` is a stopped group whose control syllable is done; `lastAt` and `lastPc` are the compute cycle and the start of
the last group issued (R354). -/
structure Pipe where
  ord : Nat
  pend : List Pend
  loads : List Load
  cycle : Nat
  interv : Nat
  freeze : Nat
  hold : Nat
  waits : List Wait
  barArr : Bool
  marrs : List Nat
  grp : Group
  suppress : BitVec 8
  recount : Bool
  ppoint : Bool
  bpSkip : Bool
  seen : Nat
  kept : Option Group
  lastAt : Nat
  lastPc : Nat
  deriving DecidableEq, Repr

/-- A write of a byte of the own scratchpad: its address, what it held before, the path and the order of the write, and the compute
cycle of it; the paths that nothing makes see it yet; and the completion words that tell of it, each with whether the engines' later
commands are ordered too (R247, R248, R263). The list of a byte's writes is in its write order (R258). -/
structure Behind where
  addr : Nat
  old : Byte
  path : Nat
  ord : Nat
  born : Nat
  readers : List Nat
  words : List (Nat × Bool)
  deriving DecidableEq, Repr

/-- A byte that a plane-path write of this cycle lands in: its address and value, the order of its accst, and the paths that nothing
makes see it yet (R180, R247, R251). -/
structure PlaneWrite where
  addr : Nat
  val : Byte
  ord : Nat
  readers : List Nat
  deriving DecidableEq, Repr

/-- The task's scratchpad and tags (R80, R82, R179) and the core's lease cache with its clock (R252). `undo` lists what the
bytes overwritten in the compute cycle held at its start, `plane` the plane-path writes that land in it, and `inbox` the stores
of peers, each with the cluster-local index of its task, its address and its bytes (R251); `planeMark` is the compute cycle up to which the core's native plane engine has been charged
(R355); `behind` the writes that unordered accesses may still miss (R247). -/
structure Local where
  scratch : Memory
  behind : List Behind
  undo : Memory
  plane : List PlaneWrite
  inbox : List (Nat × Nat × List Byte)
  tags : FMap (BitVec 4)
  bad : List Nat
  leases : List Lease
  clock : Nat
  planeMark : Nat
  deriving DecidableEq, Repr

/-- A call handed to a native unit (R225, R228): the routine and its entry, its arguments and the control registers captured at the
call, the counter of an asynchronous call, its footprint, the issue order, the start of the calling group, and the flags that the
levels then active let it record (R223); then what its definition would find at its entry (R230, R243): the registers, the scratchpad
as the plane path reads it, the results in flight and the loads outstanding. `since` is the compute cycle of the call (R355), and
`late` the flags that engine commands have brought since (R210). -/
structure NativeCall where
  idx : Nat
  unit : Native
  args : List Word
  fcr : BitVec 3
  fm : FMap Word
  ctr : Option Nat
  ranges : List (Nat × Nat)
  ord : Nat
  start : Nat
  flags : Flags
  regs : Regs
  lm : Local
  pend : List Pend
  loads : List Load
  since : Nat
  late : Flags
  deriving DecidableEq, Repr

/-- A chunk sent and not yet acknowledged: its link, its sequence, the core and the task of its command, the command's order, the
unit it carries, its bytes, whether its link was lost meanwhile, and its message, which goes out again when its command is no
more (R336). `ctx` and `pages` are the context and the global addresses, first and last, whose bytes it was read from (R276, R330). -/
structure Chunk where
  link : Nat
  seq : BitVec 32
  core : Nat
  launch : Nat
  idx : Nat
  ord : Nat
  unit : Nat
  bytes : Nat
  lost : Bool
  kind : Nat
  msg : LinkMsg
  ctx : Nat
  pages : List Nat
  deriving DecidableEq, Repr

/-- A delivery bound for a task from outside its core: bytes that a command of the task writes, with the command's path and order; the
completion word of such a command; bytes that another agent writes; what one of its counters loses; flags; or the completion of its
marr, with the clock that its participants meet at (R73, R207, R370, R383). -/
inductive Drop where
  | bytes (a : Nat) (bs : List Byte) (path ord : Nat)
  | word (a : Nat) (bs : List Byte) (path ord : Nat)
  | other (a : Nat) (bs : List Byte)
  | count (n k : Nat)
  | flags (f : Flags)
  | marr (addr : Nat) (val : BitVec 32) (ctr clock : Nat)
  deriving DecidableEq, Repr

/-- A command of the task that another replica executes for it: its order, its path, and whether all of it has been admitted to
the links (R257, R370). -/
structure Away where
  ord : Nat
  path : Nat
  admitted : Bool
  deriving DecidableEq, Repr

/-- The copy and index engines and the native units (R203 to R218, R225, R233): `acks` holds the acknowledgements that came in
a freeze (R73), `drops` the deliveries held back in a freeze or while the task's replicas are brought level (R73, R383),
`linkWins` for each link command that has had a chunk admitted its order and the device time from which it is
visible everywhere (R257), and `away` the commands that another replica executes for the task (R370). -/
structure Engines where
  cmds : List Cmd
  fences : List (BitVec 5 × BitVec 5 × Nat)
  natives : List NativeCall
  acks : List (Chunk × Flags × Bool)
  drops : List Drop
  linkWins : List (Nat × Nat)
  away : List Away
  deriving DecidableEq, Repr

/-- The task's state and the stops that wait (R307, R310, R352). -/
structure Stopping where
  st : TaskSt
  stopReq : Bool
  dbgReq : Bool
  due : List Trap
  stopVal : Option Trap
  deriving DecidableEq, Repr

/-- What a redundant or ordered task keeps until its release (R363 to R379); `sync` is the lead's core while a minority
is brought level (R372); `mismatch` the xval of a mismatch at an implicit release, which the overflowing syllable reports (R369);
`publishing` the lines that an ordered task's publication writes, until its commands have run and the younger tasks are tested
(R377). -/
structure Held where
  sectors : FMap HeldSector
  sigLo : Word
  sigHi : Word
  releases : Nat
  meet : Option (Nat × Release)
  meetAge : Nat
  readSig : BitVec 2048
  stamp : Word
  digest : Word
  attempts : Nat
  committed : Bool
  inputs : List (Nat × Word × Word)
  sync : Option (Nat × Bool)
  mismatch : Option Word
  publishing : Option (List Nat)
  deriving DecidableEq, Repr

/-- A task with the core that holds it. -/
structure CoreTask where
  id : Ident
  code : Code
  r : Regs
  pipe : Pipe
  lm : Local
  eng : Engines
  ctl : Stopping
  held : Held
  deriving DecidableEq, Repr

/-! ## Contexts, queues and launches -/

/-- A context's state (R271). -/
inductive CtxSt where
  | free | configured | resident | saved | faulted | resetting | destroyed
  deriving DecidableEq, Repr

/-- An entry of a context's image cache (R298): the image's address and generation, its verdict (0 accepted, else the cause), and
whether a verification of a newer generation has superseded it (R302). -/
structure CachedImage where
  base : Nat
  gen : Word
  code : Nat
  old : Bool
  deriving DecidableEq, Repr

/-- A context's page of registers, its latched configuration and its life cycle (R268 to R276, R329, R349); `invAt` is the address
that the invalidation in progress was asked for. -/
structure Ctx where
  st : CtxSt
  pend : Bool
  result : BitVec 3
  func : BitVec 32
  policy : BitVec 3
  part : BitVec 16
  ptroot : Word
  queues : Word
  saveBase : Word
  saveLen : Word
  slices : BitVec 128
  key : BitVec 512
  cFunc : BitVec 32
  cPart : BitVec 16
  cPtroot : Word
  cQueues : Word
  cSaveBase : Word
  cSaveLen : Word
  cSlices : BitVec 128
  clusters : List Nat
  fault : Word
  faultPc : Word
  faultVal : Word
  destroyRec : Bool
  invVa : Word
  invBusy : Bool
  invLost : Bool
  invScope : BitVec 2
  invAt : Word
  cache : List CachedImage
  evict : Bool
  counters : FMap Word
  deriving DecidableEq, Repr

/-- A queue's state (R290). -/
inductive QueueSt where
  | idle | armed | parsing | waiting | placing | running | draining | parked | error
  deriving DecidableEq, Repr

/-- A queue: its registers, the record in hand, and its open capture (R281 to R290). -/
structure Queue where
  st : QueueSt
  err : BitVec 3
  stall : Bool
  head : Nat
  short : Bool
  prio : Nat
  age : Nat
  stallCfg : BitVec 32
  doneSeq : BitVec 32
  errSeq : BitVec 32
  record : List Byte
  frames : Nat
  capture : Option (List Nat × List Word)
  deriving DecidableEq, Repr

/-- A group's state (R308). -/
inductive GroupSt where
  | unplaced | placing | loaded | running | stopping | saved | faulted | retired
  deriving DecidableEq, Repr

/-- One placement of a group: index, replica, cluster, state, and the cluster of replica 0 at its first placement (R304,
R305, R308, R313). -/
structure GroupPl where
  idx : Nat
  replica : Nat
  cluster : Nat
  st : GroupSt
  first : Option Nat
  deriving DecidableEq, Repr

/-- A verified kernel image as the loader reads it (R293 to R296). -/
structure Image where
  ordered : Bool
  gen : Word
  lat : List Nat
  tiles : Nat
  accs : Nat
  share : Nat
  groupSize : Nat
  replicas : Nat
  interval : Nat
  params : Nat
  text : List Word
  data : List Byte
  routines : List Routine
  bodies : List Word
  relocs : List (Nat × Nat × Word)
  report : Word
  deriving DecidableEq, Repr

/-- The state of an open launch in its queue (R283). -/
inductive LaunchSt where
  | placing | running | draining
  deriving DecidableEq, Repr

/-- An open launch (R281, R304 to R308, R348, R379): its record, its image, its groups; the commit order and the digests
of an ordered launch; its relocation values and the remap tables they were taken under (R297); where its save slots lie in the
save area (R275); its start time (R77); whether the stop that holds it was under continue mode (R271); and what its retired
tasks leave for R264: the device time their link writes have joined by and their latest clock. -/
structure Launch where
  id : Nat
  ctx : Nat
  q : Nat
  seq : BitVec 32
  image : Nat
  img : Image
  cnt : Nat
  params : Word
  mode : Nat
  sig : Option (Nat × Word)
  stamps : Option Nat
  digests : Option Nat
  log : Option (Nat × Nat)
  logHead : Nat
  logLost : Bool
  copies : Nat
  st : LaunchSt
  groups : List GroupPl
  strobe : Option Nat
  start : Option Nat
  traps : Nat
  placedOnce : Bool
  serial : Bool
  commits : Nat
  digs : List (Nat × Word)
  order : List (Word × Nat)
  vals : List Word
  held : Bool
  cont : Bool
  save : List Nat
  joinBy : Nat
  clock : Nat
  mapCluster : FMap (BitVec 16)
  mapSlice : FMap (BitVec 16)
  deriving DecidableEq, Repr

/-- One recorded arrival of a milestone generation (R318): task, completion address, value, counter. -/
structure MArrival where
  launch : Nat
  task : Nat
  addr : Nat
  val : BitVec 32
  ctr : Nat
  deriving DecidableEq, Repr

/-- A milestone (R317, R318). -/
structure Milestone where
  owner : Option Nat
  gen : BitVec 32
  expect : Nat
  arrived : Nat
  pend : BitVec 32
  list : List MArrival
  err : Nat
  deriving DecidableEq, Repr

/-- A cached translation leaf (R328): context, page base, log2 of the page size, physical base, permissions. -/
structure Leaf where
  ctx : Nat
  va : Nat
  size : Nat
  pa : Nat
  r : Bool
  w : Bool
  deriving DecidableEq, Repr

/-! ## Links -/

/-- A link's state (R343). -/
inductive LinkSt where
  | down | training | up | degraded | failed
  deriving DecidableEq, Repr

/-- What a link sends (R337). A time message is a Sync (0), a Pdelay_Resp (1), an Announce (2) or a Pdelay_Req (3) of a boundary clock,
with what it says (R339). A pad is the half of a padding header that runs into a flit of its own. -/
inductive LinkOut where
  | msg (kind : Nat) (m : LinkMsg)
  | nak (seq : BitVec 12)
  | accept (flags : Flags) (refused dup : Bool) (seq : BitVec 32)
  | credit (n : Nat)
  | train (win : Nat) (lanes : BitVec 5) (next : BitVec 32) (clock : Word)
  | gate (on : Bool)
  | wake
  | time (kind : Nat) (fields : List Word)
  | pad
  deriving DecidableEq, Repr

/-- An item sent: the flit it starts in, its first byte in that flit's payload, and the item. -/
structure Sent where
  flit : BitVec 12
  pos : Nat
  item : LinkOut
  deriving DecidableEq, Repr

/-- A device link (R335 to R338, R343). `laneMs` is the millisecond of the last lane error count that was too high. Sending:
`unacked` is what the link has sent and its partner has not acknowledged; `tail` the type of the last flit, `data` and `ctl` the
payload bytes used in the last data and the last control flit; `freeAt` the time, in hundredths of a cycle, at which the last
flit has left. Receiving: `rxData` is the payload bytes used in the partner's last data flit, `joined` whether its next record
shares a flit with the last, `discard` whether flits are discarded until the partner's replay begins. The partner: `pwin`
and `pclock` are the window code and the clock identity of its last train record, `absent` the contexts that it has not configured,
`announce` the last clock it announced: priority 1, quality, identity and steps removed. `win` is the window code in effect since
the last training; `swapEnd` the device time at which a lane swap ends. Time: `timeSeq` counts the time messages sent, `asked` is
when the last Pdelay_Req left that has no answer yet, `delay` the delay of the peer in nanoseconds (R339). -/
structure Link where
  st : LinkSt
  why : Nat
  lanes : BitVec 5
  en : Bool
  errThr : BitVec 32
  laneErr : FMap (BitVec 32)
  laneMs : Nat
  replay : Word
  txFlit : BitVec 12
  rxFlit : BitVec 12
  unacked : List Sent
  tail : Nat
  data : Nat
  ctl : Nat
  freeAt : Nat
  rxData : Nat
  joined : Bool
  discard : Bool
  nextChunk : BitVec 32
  credits : Nat
  last : BitVec 32
  fresh : Bool
  gated : Bool
  waiting : Bool
  chunks : List Chunk
  pwin : Option Nat
  pclock : Option Word
  absent : List Nat
  announce : Option (Byte × Word × Word × BitVec 16)
  timeSeq : Nat
  asked : Option Word
  delay : Word
  win : Nat
  swapEnd : Nat
  deriving DecidableEq, Repr

/-- The state of device time (R339). -/
inductive TimeSt where
  | free | locking | locked | holdover
  deriving DecidableEq, Repr

/-! ## The module -/

/-- What the world outside the machine can do to it beside the events of the opcode table (notes/assumptions 44): a flit fails
its check or has an unknown type, behind n flits of the message in progress, a flit of any type acknowledges flits, the partner begins a replay, its next control record shares a flit with the last, it configures a
context or takes one down, the flash fails at its next command, a sector decays beyond correction in main memory, in a scratchpad or in a
slice, and the writer of an image rewrites it while the loader reads. -/
inductive Outside where
  | badFlit (l n : Nat)
  | flitAck (l : Nat) (ack : BitVec 12)
  | replayed (l : Nat)
  | sameFlit (l : Nat)
  | remoteContext (l x : Nat) (on : Bool)
  | flashFailure
  | mainDamage (sector : Nat)
  | scratchDamage (core sector : Nat)
  | sliceDamage (sector : Nat)
  | imageRewritten
  | tracePort (behind : Bool)
  deriving DecidableEq, Repr

/-- Which agent moves next: a core for one compute cycle, an event, or the outside world. The model's own
(notes/assumptions 6). -/
inductive Turn where
  | core (k : Nat)
  | event (i : Instr)
  | outside (o : Outside)
  deriving DecidableEq, Repr

/-- A fault-injection channel (R353). -/
structure Inject where
  ctl : Word
  sel : Word
  cyc : Word
  deriving DecidableEq, Repr

/-- The debug and trace registers (R350); `asked`: the replicas of the target, on no core and not saved, that a debug stop was
requested for (R352). -/
structure Debug where
  unlocked : Bool
  tgt : Word
  bp : FMap (BitVec 32)
  trBase : Word
  trLen : BitVec 32
  trCtl : BitVec 2
  trHead : BitVec 32
  trCount : Nat
  trBehind : Bool
  trLost : Bool
  asked : List Nat
  fi : FMap Inject
  deriving DecidableEq, Repr

/-- Ownership, spares, alarm and mailbox (R26 to R37). -/
structure Owner where
  denied : Nat
  pending : Nat
  owner : Nat
  prev : Nat
  thresh : BitVec 32
  window : Bool
  alarm : BitVec 4
  mbCmd : BitVec 32
  mbResult : Nat
  mbNext : Nat
  mbBusy : Bool
  nonces : Nat
  mbData : Memory
  deriving DecidableEq, Repr

/-- What the flash holds (R35, R36): configuration blocks by type, the key that an owner key block stored later is signed under,
image slots with a verified mark, the log, and whether its next command fails (R36 result 5). -/
structure Flash where
  blocks : FMap (List Byte)
  keyBefore : List Byte
  images : FMap (List Byte)
  verified : FMap Bool
  authFails : Nat
  causes : BitVec 4
  revoked : Word
  records : List (Nat × Nat)
  failing : Bool
  deriving DecidableEq, Repr

/-- The memory system outside the cores (R12, R14, R19, R195, R252, R317, R328). `clear` marks, by sector, the bytes that the host
wrote and that every key reads as they are (R265). -/
structure MemSys where
  phys : Memory
  bad : List Nat
  sliceBad : List Nat
  tag : FMap (Option (BitVec 512))
  clear : FMap (BitVec 32)
  home : FMap (Nat × Nat)
  hdm : Memory
  slices : Memory
  miles : FMap Milestone
  tlbCore : FMap (List Leaf)
  tlbCluster : FMap (List Leaf)
  tlbDie : FMap (List Leaf)
  deriving DecidableEq, Repr

/-- The module's own state (R22 to R37); `cxlUp`: the CXL link is up (R24); `failed`: the clusters that are out of service; `lost`:
the clusters that have failed outright and whose substitution waits for a context save (R28). -/
structure Mod where
  ready : Bool
  cxlUp : Bool
  bootfail : Bool
  booted : Bool
  locked : Bool
  prov : Bool
  spareOut : Bool
  stepping : BitVec 32
  gated : Bool
  waking : Bool
  own : Owner
  flash : Flash
  credential : Option (BitVec 32)
  keys : FMap (BitVec 512)
  healthCore : FMap (BitVec 16)
  healthSlice : FMap (BitVec 16)
  healthChan : FMap (BitVec 16)
  retired : List (HealthUnit × Nat)
  failed : List Nat
  lost : List Nat
  mapCluster : FMap (BitVec 16)
  mapSlice : FMap (BitVec 16)
  mapChan : FMap (BitVec 16)
  power : FMap Power
  deriving DecidableEq, Repr

/-- A command that needs the executive: one of the register window acts at once, or, written while the module was gated, in the
first frame after wake (R23); a function-level reset at the next frame boundary (R360). -/
inductive Deferred where
  | configure (x : Nat)
  | destroy (x : Nat)
  | resume (x : Nat)
  | kill (x : Nat)
  | resize (x : Nat)
  | reset (x : Nat)
  | skip (q : Nat)
  | flush (q : Nat)
  | window
  | flr (f : Nat)
  deriving DecidableEq, Repr

/-- The executive: contexts, queues, launches (R268 to R291, R304 to R312); `deferred` holds the commands that wait for
a frame (R23, R360); `points` the tasks as they stood at their last pre-emption points (R274);
`rewritten` that the image the loader reads next is rewritten under it (R298); `torn` the slots whose seal byte the host wrote
while they were sealed, with the time of the write (R292), `late` the earlier values of the other bytes that it wrote then, by
address (R280). -/
structure Exe where
  lastCtx : FMap Nat
  ctxs : FMap Ctx
  queues : FMap Queue
  launches : List Launch
  nextLaunch : Nat
  saved : List CoreTask
  points : List CoreTask
  lwBase : Word
  frame : Word
  wake : Word
  lastPlaced : FMap Nat
  deferred : List Deferred
  rewritten : Bool
  torn : FMap Nat
  late : FMap (List Byte)
  deriving DecidableEq, Repr

/-- The links and device time (R335 to R343). -/
structure Net where
  links : FMap Link
  win : Nat
  timeSt : TimeSt
  master : Nat
  grand : Bool
  prio1 : Byte
  offset : Word
  syncs : Nat
  routes : FMap (BitVec 32)
  clock : Nat
  deriving DecidableEq, Repr

/-- The state of the module. `t` is the task of the core whose turn it is; `rest` the tasks of the other cores; `judged` the compute
cycle after the last whose end a wait has been judged at (R251; the model's own). -/
structure State where
  t : CoreTask
  rest : List CoreTask
  agenda : List Turn
  now : Nat
  judged : Nat
  timeOff : Int
  mem : MemSys
  md : Mod
  exe : Exe
  net : Net
  dbg : Debug
  deriving DecidableEq, Repr

/-- Why the machine stops with a fault. -/
inductive Fault where
  /-- A host memory access that leaves the 64-bit address space of the host attachment (raised by
  HOST_MEMORY_ACCESS). Safe: no such address exists. -/
  | outsideAddressSpace
  deriving DecidableEq, Repr

/-- Why an instruction has no meaning. -/
inductive Refusal where
  /-- The instruction is not modelled yet (raised by an arm of exec). Safe. -/
  | notModelled (mnemonic : String)
  deriving DecidableEq, Repr

/-! ## Reset -/

/-- A bank at its load value (R74). -/
def Bank.zero : Bank :=
  { s := [], q := [], ya := 0, yb := 0, ym := 0, yt := 0, p := [], loops := [] }

def Group.idle : Group :=
  { start := 0, next := 0, present := 0, lx := none, failed := 0, trap := none, soft := none, xfer := none,
    back := none, halting := false, issued := false, cycle := 0 }

/-- The latency classes a `.latency` directive defaults to (R99). -/
def defaultLat : List Nat := [1, 3, 2, 4, 6, 3, 4, 2]

/-- A core with no task: every register at its load value (R74), the header values the defaults of R99 and the logical clock of R252
at 0 (DESIGN CHOICE; notes/assumptions 3). -/
def CoreTask.empty (core : Nat) : CoreTask :=
  { id := { core, cidBase := core, ctx := 0, launch := 0, idx := 0, cnt := 0, gidx := 0, cidx := core % 4, replica := 0,
            copies := 1, ordered := false, base := 0 },
    code := { imem := [], textLen := 0, codeLen := 0, routines := [], lat := defaultLat, nTiles := 4,
              nAccs := 0, share := 0xC0000, groupSize := 1, interval := 65536 },
    r := { pc := 0, s := [], p := [], b := Bank.zero, mks := [], tiles := [], h := [], acc := [], accExp := [],
           calls := [], frames := [], fm := [], w := [], dreg := [], nreg := [], greg := [], fcr := 0, fsr := 0,
           lfsr := [], lcycle := 0, xpc := 0, xcause := 0, xval := 0, xmask := 0 },
    pipe := { ord := 0, pend := [], loads := [], cycle := 0, interv := 0, freeze := 0, hold := 0, waits := [],
              barArr := false, marrs := [], grp := Group.idle, suppress := 0, recount := false, ppoint := false,
              bpSkip := false, seen := 0, kept := none, lastAt := 0, lastPc := 0 },
    lm := { scratch := [], behind := [], undo := [], plane := [], inbox := [], tags := [], bad := [], leases := [], clock := 0, planeMark := 0 },
    eng := { cmds := [], fences := [], natives := [], acks := [], drops := [], linkWins := [], away := [] },
    ctl := { st := .placed, stopReq := false, dbgReq := false, due := [], stopVal := none },
    held := { sectors := [], sigLo := 0, sigHi := 0, releases := 0, meet := none, meetAge := 0, readSig := 0,
              stamp := 0, digest := 0, attempts := 0, committed := false, inputs := [], sync := none, mismatch := none, publishing := none } }

/-- A free context: every register at the Reset column's value (R271). -/
def Ctx.free : Ctx :=
  { st := .free, pend := false, result := 0, func := 0, policy := 0, part := 0, ptroot := 0, queues := 0,
    saveBase := 0, saveLen := 0, slices := 0, key := 0, cFunc := 0, cPart := 0, cPtroot := 0, cQueues := 0,
    cSaveBase := 0, cSaveLen := 0, cSlices := 0, clusters := [], fault := 0, faultPc := 0, faultVal := 0,
    destroyRec := false, invVa := 0, invBusy := false, invLost := false, invScope := 0, invAt := 0,
    cache := [], evict := false, counters := [] }

/-- An idle queue (R290). -/
def Queue.idle : Queue :=
  { st := .idle, err := 0, stall := false, head := 0, short := false, prio := 0, age := 0, stallCfg := 0,
    doneSeq := 0, errSeq := 0, record := [], frames := 0, capture := none }

def Milestone.free : Milestone :=
  { owner := none, gen := 0, expect := 0, arrived := 0, pend := 0, list := [], err := 0 }

/-- A link before bring-up (R343). -/
def Link.reset : Link :=
  { st := .down, why := 0, lanes := 0b01111, en := false, errThr := 0, laneErr := [], laneMs := 0, replay := 0, txFlit := 0,
    rxFlit := 0, unacked := [], tail := 0, data := 0, ctl := 0, freeAt := 0, rxData := 0, joined := false, discard := false,
    nextChunk := 1, credits := 0, last := 0, fresh := true, gated := false, waiting := false, chunks := [], pwin := none,
    pclock := none, absent := [], announce := none, timeSeq := 0, asked := none, delay := 0, win := 0, swapEnd := 0 }

def Inject.idle : Inject := { ctl := 0, sel := 0, cyc := 0 }

def Debug.reset : Debug :=
  { unlocked := false, tgt := 0, bp := [], trBase := 0, trLen := 0, trCtl := 0, trHead := 0, trCount := 0,
    trBehind := false, trLost := false, asked := [], fi := [] }

def Owner.reset : Owner :=
  { denied := 0, pending := 0, owner := 0, prev := 0, thresh := 0, window := false, alarm := 0, mbCmd := 0,
    mbResult := 0, mbNext := 0, mbBusy := false, nonces := 0, mbData := [] }

/-- The flash as shipped: no failure counted, no cause logged, nothing revoked; unlisted blocks and slots read the
shipped bytes (notes/assumptions 5). -/
def Flash.shipped : Flash :=
  { blocks := [], keyBefore := [], images := [], verified := [], authFails := 0, causes := 0, revoked := 0, records := [],
    failing := false }

/-- The module right after power-on reset, before bring-up (R24, R25). -/
def State.reset : State :=
  { t := CoreTask.empty 0, rest := [], agenda := [], now := 0, judged := 0, timeOff := 0,
    mem := { phys := [], bad := [], sliceBad := [], tag := [], clear := [], home := [], hdm := [], slices := [], miles := [], tlbCore := [],
             tlbCluster := [], tlbDie := [] },
    md := { ready := false, cxlUp := false, bootfail := false, booted := false, locked := false, prov := false,
            spareOut := false, stepping := 0, gated := false, waking := false, own := Owner.reset, flash := Flash.shipped,
            credential := none, keys := [], healthCore := [], healthSlice := [], healthChan := [],
            retired := [], failed := [], lost := [], mapCluster := [], mapSlice := [], mapChan := [], power := [] },
    exe := { lastCtx := [], ctxs := [], queues := [], launches := [], nextLaunch := 1, saved := [], points := [], lwBase := 0,
             frame := 0, wake := 0, lastPlaced := [], deferred := [], rewritten := false, torn := [], late := [] },
    net := { links := [], win := 0, timeSt := .free, master := 0, grand := false, prio1 := 0, offset := 0,
             syncs := 0, routes := [], clock := 0 },
    dbg := Debug.reset }

end Sys2Proof.Machine
end

