-- ==== Sys2Proof/Machine/Flags.lean ====
section
/-! DEFINITION. Numbers to the bit (02_numbers): formats, exact values, the one rounding, conversions, the lane LFSR,
nested bit-plane integers and accumulator arithmetic, with every flag each of them raises. -/

namespace Sys2Proof.Machine

/-! ## Flags (R48) -/

def fInvalid : Flags := 1
def fOverflow : Flags := 2
def fUnderflow : Flags := 4
def fInexact : Flags := 8
def fSaturated : Flags := 16
def fReserved : Flags := 32

def flagIf (b : Bool) (f : Flags) : Flags := if b then f else 0

/-! ## Rounding of a magnitude (R38, R45, R50, R51) -/

/-- lfsr_step (R50). -/
def lfsrStep (s : BitVec 32) : BitVec 32 :=
  if s.toNat % 2 = 1 then (s >>> 1) ^^^ 0x80200003 else s >>> 1

/-- The state of lane k's LFSR at task load (R50). -/
def lfsrInit (k : Nat) : BitVec 32 := BitVec.ofNat 32 (0x5EED0001 + k * 0x10000)

/-- stoch (R51): magnitude m with d discarded bits under state s. -/
def stoch (m d : Nat) (s : BitVec 32) : Nat :=
  let q := m / 2 ^ d
  let k := min d 32
  if k = 0 then q
  else if m % 2 ^ d + s.toNat / 2 ^ (32 - k) * 2 ^ (d - k) ≥ 2 ^ d then q + 1 else q

/-- Round to nearest, ties to even, of m / 2^d. -/
def rneShift (m d : Nat) : Nat :=
  let q := m / 2 ^ d
  let r := 2 * (m % 2 ^ d)
  if r > 2 ^ d ∨ (r = 2 ^ d ∧ q % 2 = 1) then q + 1 else q

/-- A magnitude m / 2^d rounded to an integer in a mode. -/
def roundMag (mode : RMode) (s : BitVec 32) (m d : Nat) : Nat :=
  match mode with
  | .rne => rneShift m d
  | .rtz => m / 2 ^ d
  | .sr => stoch m d s

/-- shr_rne (R38): rne(v / 2^k) for an integer v. -/
def shrRne (v : Int) (k : Nat) : Int :=
  if v < 0 then - Int.ofNat (rneShift v.natAbs k) else Int.ofNat (rneShift v.natAbs k)

/-- Two's complement reading of the low w bits. -/
def sx (w x : Nat) : Int :=
  let y := x % 2 ^ w
  if y < 2 ^ (w - 1) then y else (y : Int) - 2 ^ w

/-- The low w bits of an integer. -/
def lowBits (w : Nat) (v : Int) : Nat := (v % 2 ^ w).toNat

/-- sat (R38). -/
def satInt (v lo hi : Int) : Int := if v < lo then lo else if v > hi then hi else v

/-! ## Formats (R39 to R43) -/

/-- A floating-point format: fraction bits, exponent bits, bias, and whether it is e4m3. -/
structure FloatFmt where
  mb : Nat
  eb : Nat
  bias : Nat
  e4 : Bool
  deriving DecidableEq, Repr

end Sys2Proof.Machine

namespace Sys2Proof

def ElemTy.float? : ElemTy → Option Machine.FloatFmt
  | .f32 => some ⟨23, 8, 127, false⟩
  | .bf16 => some ⟨7, 8, 127, false⟩
  | .f16 => some ⟨10, 5, 15, false⟩
  | .e5m2 => some ⟨2, 5, 15, false⟩
  | .e4m3 => some ⟨3, 4, 7, true⟩
  | _ => none

/-- Bits of an element. -/
def ElemTy.width : ElemTy → Nat
  | .i32 | .f32 => 32
  | .i16 | .bf16 | .f16 => 16
  | .i8 | .ui8 | .e4m3 | .e5m2 => 8
  | .i64 => 64

/-- Elements of a row (R41). -/
def ElemTy.count (ty : ElemTy) : Nat := 2048 / ty.width

/-- The lane whose LFSR and mask bit element j uses: the even lane of a pair (R52, R157). -/
def ElemTy.lane (ty : ElemTy) (j : Nat) : Nat := j * ty.width / 32

/-- The lower and upper bounds of an integer type (R39). -/
def ElemTy.lo : ElemTy → Int
  | .i32 => -2 ^ 31
  | .i16 => -2 ^ 15
  | .i8 => -2 ^ 7
  | .i64 => -2 ^ 63
  | _ => 0

def ElemTy.hi : ElemTy → Int
  | .i32 => 2 ^ 31 - 1
  | .i16 => 2 ^ 15 - 1
  | .i8 => 2 ^ 7 - 1
  | .ui8 => 255
  | .i64 => 2 ^ 63 - 1
  | _ => 0

/-- The value an integer type reads from an element's bits (R39). -/
def ElemTy.int (ty : ElemTy) (x : Nat) : Int :=
  if ty = .ui8 then (x % 256 : Nat) else Machine.sx ty.width x

end Sys2Proof

namespace Sys2Proof.Machine

/-- A floating-point value read exactly: a NaN (signalling or not), an infinity, or (−1)^neg · m · 2^e. -/
inductive FVal where
  | nan (signalling : Bool)
  | inf (neg : Bool)
  | fin (neg : Bool) (m : Nat) (e : Int)
  deriving DecidableEq, Repr

namespace FloatFmt

def width (f : FloatFmt) : Nat := 1 + f.eb + f.mb
/-- The exponent of the smallest normal. -/
def emin (f : FloatFmt) : Int := 1 - (f.bias : Int)
/-- The largest finite magnitude is maxM · 2^maxQ. -/
def maxM (f : FloatFmt) : Nat := if f.e4 then 14 else 2 ^ (f.mb + 1) - 1
def maxQ (f : FloatFmt) : Int := (if f.e4 then 8 else (f.bias : Int)) - f.mb
/-- The pattern of the canonical NaN (R43). -/
def canonNaN (f : FloatFmt) : Nat :=
  if f.e4 then 0x7F else (2 ^ f.eb - 1) * 2 ^ f.mb + 2 ^ (f.mb - 1)
def maxBits (f : FloatFmt) : Nat := if f.e4 then 0x7E else (2 ^ f.eb - 1) * 2 ^ f.mb - 1
def infBits (f : FloatFmt) : Nat := (2 ^ f.eb - 1) * 2 ^ f.mb
def signBit (f : FloatFmt) (neg : Bool) : Nat := if neg then 2 ^ (f.eb + f.mb) else 0

/-- The exact value of an element; with `ftz` a subnormal reads as zero of its sign (R42, R43, R47). -/
def read (f : FloatFmt) (ftz : Bool) (x : Nat) : FVal :=
  let neg := x / 2 ^ (f.eb + f.mb) % 2 = 1
  let ex := x / 2 ^ f.mb % 2 ^ f.eb
  let fr := x % 2 ^ f.mb
  if f.e4 then
    if ex = 15 ∧ fr = 7 then .nan false
    else if ex = 0 then .fin neg (if ftz then 0 else fr) (f.emin - f.mb)
    else .fin neg (2 ^ f.mb + fr) ((ex : Int) - f.bias - f.mb)
  else if ex = 2 ^ f.eb - 1 then
    if fr = 0 then .inf neg else .nan (fr < 2 ^ (f.mb - 1))
  else if ex = 0 then .fin neg (if ftz then 0 else fr) (f.emin - f.mb)
  else .fin neg (2 ^ f.mb + fr) ((ex : Int) - f.bias - f.mb)

/-- An overflowed result (R46). -/
def overflowed (f : FloatFmt) (mode : RMode) (neg : Bool) : Nat × Flags :=
  let v := if f.e4 || mode == .rtz then f.maxBits else f.infBits
  (f.signBit neg + v, fOverflow ||| fInexact)

/-- round() (R38, R46, R47, R51): a value rounded once to the format, with the flags it raises. -/
def round (f : FloatFmt) (ftz : Bool) (mode : RMode) (s : BitVec 32) (v : FVal) : Nat × Flags :=
  match v with
  | .nan sig => (f.canonNaN, flagIf sig fInvalid)
  | .inf neg =>
    if f.e4 then (f.signBit neg + f.maxBits, fOverflow ||| fInexact) else (f.signBit neg + f.infBits, 0)
  | .fin neg m e =>
    if m = 0 then (f.signBit neg, 0)
    else
      let top : Int := e + Nat.log2 m
      let q : Int := max top f.emin - f.mb
      let d : Int := q - e
      let r := if d ≤ 0 then m * 2 ^ (-d).toNat else roundMag mode s m d.toNat
      let inexact := 0 < d && m % 2 ^ d.toNat != 0
      if f.maxQ < q ∨ (q = f.maxQ ∧ f.maxM < r) then f.overflowed mode neg
      else
        let tiny := top < f.emin
        let fl := flagIf inexact fInexact ||| flagIf (tiny && inexact) fUnderflow
        if r < 2 ^ f.mb then
          if ftz ∧ r ≠ 0 then (f.signBit neg, fUnderflow ||| fInexact) else (f.signBit neg + r, fl)
        else
          let up := r = 2 ^ (f.mb + 1)
          let fr := if up then 0 else r - 2 ^ f.mb
          let ex := (q + f.mb + f.bias + (if up then 1 else 0)).toNat
          (f.signBit neg + ex * 2 ^ f.mb + fr, fl)

end FloatFmt

/-! ## Exact arithmetic (R44, R160) -/

def FVal.neg : FVal → FVal
  | .nan s => .nan s
  | .inf n => .inf (!n)
  | .fin n m e => .fin (!n) m e

/-- An exact sum. An exact zero is +0 unless both addends are −0 (R160). -/
def addFin (na : Bool) (ma : Nat) (ea : Int) (nb : Bool) (mb : Nat) (eb : Int) : FVal :=
  if ma = 0 ∧ mb = 0 then .fin (na && nb) 0 0
  else
    let e := min ea eb
    let x : Int := (if na then -1 else 1) * (ma * 2 ^ (ea - e).toNat : Nat)
    let y : Int := (if nb then -1 else 1) * (mb * 2 ^ (eb - e).toNat : Nat)
    .fin (x + y < 0) (x + y).natAbs e

/-- x + y with the flags of R44: a NaN operand gives a NaN, ∞ − ∞ is invalid. -/
def FVal.add (x y : FVal) : FVal × Flags :=
  match x, y with
  | .nan a, .nan b => (.nan false, flagIf (a || b) fInvalid)
  | .nan a, _ => (.nan false, flagIf a fInvalid)
  | _, .nan b => (.nan false, flagIf b fInvalid)
  | .inf a, .inf b => if a = b then (.inf a, 0) else (.nan false, fInvalid)
  | .inf a, .fin .. => (.inf a, 0)
  | .fin .., .inf b => (.inf b, 0)
  | .fin na ma ea, .fin nb mb eb => (addFin na ma ea nb mb eb, 0)

/-- x * y with the flags of R44: 0 × ∞ is invalid. -/
def FVal.mul (x y : FVal) : FVal × Flags :=
  match x, y with
  | .nan a, .nan b => (.nan false, flagIf (a || b) fInvalid)
  | .nan a, _ => (.nan false, flagIf a fInvalid)
  | _, .nan b => (.nan false, flagIf b fInvalid)
  | .inf a, .inf b => (.inf (a != b), 0)
  | .inf a, .fin nb mb _ => if mb = 0 then (.nan false, fInvalid) else (.inf (a != nb), 0)
  | .fin na ma _, .inf b => if ma = 0 then (.nan false, fInvalid) else (.inf (na != b), 0)
  | .fin na ma ea, .fin nb mb eb => (.fin (na != nb) (ma * mb) (ea + eb), 0)

/-- x * y + z, exact; 0 × ∞ is invalid even with a quiet NaN z (R44). -/
def FVal.fma (x y z : FVal) : FVal × Flags :=
  let p := x.mul y
  let r := p.1.add z
  (r.1, p.2 ||| r.2)

/-- The order of two values that are no NaN, −0 below +0 (R161); `some true` when x < y. -/
def FVal.ltTotal (x y : FVal) : Bool :=
  match x, y with
  | .inf a, .inf b => a && !b
  | .inf a, .fin .. => a
  | .fin .., .inf b => !b
  | .fin na ma ea, .fin nb mb eb =>
    let e := min ea eb
    let u : Int := (if na then -1 else 1) * (ma * 2 ^ (ea - e).toNat : Nat)
    let v : Int := (if nb then -1 else 1) * (mb * 2 ^ (eb - e).toNat : Nat)
    u < v || (u = v && ma = 0 && na && !nb)
  | _, _ => false

def FVal.isZero : FVal → Bool
  | .fin _ 0 _ => true
  | _ => false

def FVal.isNaN : FVal → Bool
  | .nan _ => true
  | _ => false

def FVal.isSignalling : FVal → Bool
  | .nan s => s
  | _ => false

/-- x < y as numbers, +0 = −0 (R162). -/
def FVal.lt (x y : FVal) : Bool := !(x.isZero && y.isZero) && x.ltTotal y

/-- x = y as numbers (R162). -/
def FVal.eqv (x y : FVal) : Bool :=
  !x.isNaN && !y.isNaN && !x.lt y && !y.lt x

/-- A value rounded to an integer in a mode, and whether rounding changed it (R49, R61). -/
def roundInt (mode : RMode) (s : BitVec 32) (neg : Bool) (m : Nat) (e : Int) : Int × Bool :=
  let r := if 0 ≤ e then m * 2 ^ e.toNat else roundMag mode s m (-e).toNat
  let inexact := e < 0 && m % 2 ^ (-e).toNat != 0
  ((if neg then -1 else 1) * (r : Int), inexact)

/-! ## Conversions between element types (R49) -/

/-- A floating-point value converted to an integer type. -/
def floatToInt (ty : ElemTy) (mode : RMode) (s : BitVec 32) : FVal → Nat × Flags
  | .nan _ => (0, fInvalid)
  | .inf neg => (lowBits ty.width (if neg then ty.lo else ty.hi), fInvalid)
  | .fin neg m e =>
    let (v, inexact) := roundInt mode s neg m e
    let c := satInt v ty.lo ty.hi
    (lowBits ty.width c, if c = v then flagIf inexact fInexact else fInvalid)

/-- convert(x, U, T, mode, state) (R49, R166). -/
def convert (src ty : ElemTy) (ftz : Bool) (mode : RMode) (s : BitVec 32) (x : Nat) : Nat × Flags :=
  match src.float?, ty.float? with
  | some f, some g => g.round ftz mode s (f.read ftz x)
  | some f, none => floatToInt ty mode s (f.read ftz x)
  | none, some g =>
    let v := src.int x
    g.round ftz mode s (.fin (v < 0) v.natAbs 0)
  | none, none =>
    let v := src.int x
    let c := satInt v ty.lo ty.hi
    (lowBits ty.width c, flagIf (c != v) fSaturated)

/-! ## Accumulator entries (R60, R61) -/

/-- acc_add (R60): a contribution v at exponent E added to an entry of exponent e; the flag is inexact. -/
def accAdd (entry : Word) (v ee e : Int) : Word × Flags :=
  if e ≤ ee then (entry + BitVec.ofInt 64 (v * 2 ^ (ee - e).toNat), 0)
  else
    let t := shrRne v (e - ee).toNat
    (entry + BitVec.ofInt 64 t, flagIf (t * 2 ^ (e - ee).toNat != v) fInexact)

/-- accexp's entry rule (R182). -/
def accRescale (entry : Word) (old e : Int) : Word × Flags :=
  if e ≤ old then (BitVec.ofInt 64 (entry.toInt * 2 ^ (old - e).toNat), 0)
  else
    let t := shrRne entry.toInt (e - old).toNat
    (BitVec.ofInt 64 t, flagIf (t * 2 ^ (e - old).toNat != entry.toInt) fInexact)

/-- An accumulator entry converted to an element (R61, R183). -/
def accConvert (ty : ElemTy) (ftz : Bool) (mode : RMode) (s : BitVec 32) (entry : Word) (e : Int) : Nat × Flags :=
  let v := entry.toInt
  match ty.float? with
  | some f => f.round ftz mode s (.fin (v < 0) v.natAbs e)
  | none =>
    let (r, inexact) := roundInt mode s (v < 0) v.natAbs e
    let c := satInt r ty.lo ty.hi
    (lowBits ty.width c, flagIf inexact fInexact ||| flagIf (c != r) fSaturated)

/-! ## Format records and nested integers (R54 to R58) -/

/-- The fields of a format record (R57). -/
def fmS (f : Word) : Nat := f.toNat % 32
def fmW (f : Word) : Nat := f.toNat / 32 % 32
def fmSign (f : Word) : Nat := f.toNat / 2 ^ 10 % 4
def fmScales (f : Word) : Bool := f.toNat / 2 ^ 12 % 2 = 1
def fmSpan (f : Word) : Nat := f.toNat / 2 ^ 13 % 8
def fmSwz (f : Word) : Bool := f.toNat / 2 ^ 16 % 2 = 1

/-- Whether a record is ill-formed (R58). -/
def fmBad (f : Word) : Bool :=
  fmS f = 0 || 16 < fmS f || fmW f = 0 || fmS f < fmW f || fmSign f = 3 || (!fmSwz f && fmSpan f != 0)
    || f.toNat / 2 ^ 17 != 0

/-- swz (R178) for the span 16 << n. -/
def swz (a n : Nat) : Nat := a ^^^ ((a >>> (4 + n)) % 2 ^ n * 16)

/-- The physical address of a logical byte under a record's swizzle (R178). -/
def fmAddr (f : Word) (a : Nat) : Nat := if fmSwz f then swz a (fmSpan f) else a

/-- The unsigned weight sum of plane bits whose first plane carries bit position `pos` (R54). -/
def niSum : Nat → List Bool → Int
  | _, [] => 0
  | pos, b :: rest => (if b then 2 ^ pos else 0) + niSum (pos - 1) rest

/-- The value of an element of S stored planes whose first planes, b[0] first, are read (R54, R55). -/
def niValue (sign S : Nat) (bits : List Bool) : Int :=
  match bits with
  | true :: rest => (if sign = 0 then 2 ^ (S - 1) else -(2 ^ (S - 1))) + niSum (S - 2) rest
  | false :: rest => niSum (S - 2) rest
  | [] => 0

/-- Whether read planes hold the reserved pattern of the symmetric format (R56). -/
def niReserved (sign : Nat) (bits : List Bool) : Bool :=
  sign = 2 && match bits with
    | true :: rest => rest.all (!·)
    | _ => false

end Sys2Proof.Machine
end

