-- ==== Sys2Proof/Machine/Ops.lean ====
section
/-! DEFINITION. The named operations over sparse data, memory and registers; a result in flight and its landing; taking
a trap and resuming from one; the end of a group. -/

namespace Sys2Proof.Machine

/-! ## Sparse data -/

/-- The value under a key, `d` where no entry has it. -/
def mget {α : Type} (d : α) : FMap α → Nat → α
  | [], _ => d
  | (a, x) :: m, k => if a = k then x else mget d m k

/-- Writes a key, keeping the keys rising and listing no default. -/
def mset {α : Type} [DecidableEq α] (d : α) : FMap α → Nat → α → FMap α
  | [], k, v => if v = d then [] else [(k, v)]
  | (a, x) :: m, k, v =>
    if k < a then (if v = d then (a, x) :: mset d m k v else (k, v) :: (a, x) :: m)
    else if k = a then (if v = d then mset d m k v else (k, v) :: m)
    else (a, x) :: mset d m k v

/-- The canonical form: keys strictly rising, no entry equal to the default. -/
def mwf {α : Type} [DecidableEq α] (d : α) : FMap α → Bool
  | [] => true
  | (a, x) :: m => (x != d) && (match m with | [] => true | (b, _) :: _ => a < b) && mwf d m

/-- Applies a function to the value under a key. -/
def mmod {α : Type} [DecidableEq α] (d : α) (m : FMap α) (k : Nat) (f : α → α) : FMap α := mset d m k (f (mget d m k))

/-! ## Memory -/

/-- What an unlisted byte of any memory reads as (notes/assumptions 1). -/
def blankByte : Byte := 0

/-- The canonical form of a memory. -/
def Memory.wf (m : Memory) : Bool := mwf blankByte m

def readByte (m : Memory) (a : Nat) : Byte := mget blankByte m a
def writeByte (m : Memory) (a : Nat) (b : Byte) : Memory := mset blankByte m a b

/-- The bytes in which one memory differs from another, as the first holds them; `n` bounds their entries. -/
def differing : Nat → Memory → Memory → Memory
  | 0, _, _ => []
  | _ + 1, l, [] => l
  | _ + 1, [], r => r.map fun c => (c.1, blankByte)
  | n + 1, (a, b) :: l, (c, d) :: r =>
    if a = c then (if b = d then differing n l r else (a, b) :: differing n l r)
    else if a < c then (a, b) :: differing n l ((c, d) :: r)
    else (c, blankByte) :: differing n ((a, b) :: l) r

/-- The bytes [a, a + n), lowest address first. -/
def readBytes (m : Memory) (a n : Nat) : List Byte := (List.range n).map fun i => readByte m (a + i)

/-- Writes bytes from an address up. -/
def writeBytes (m : Memory) (a : Nat) : List Byte → Memory
  | [] => m
  | b :: bs => writeBytes (writeByte m a b) (a + 1) bs

/-- The little-endian value of bytes (R3). -/
def leNat : List Byte → Nat
  | [] => 0
  | b :: bs => b.toNat + 256 * leNat bs

/-- The n little-endian bytes of a value (R3). -/
def leBytes : Nat → Nat → List Byte
  | 0, _ => []
  | n + 1, v => BitVec.ofNat 8 v :: leBytes n (v / 256)

/-- A little-endian value of n bytes in a memory. -/
def readNat (m : Memory) (a n : Nat) : Nat := leNat (readBytes m a n)

/-- The width-w elements of a row, element 0 first (R40). -/
def rowElems (w : Nat) (r : Row) : List Nat :=
  (List.range (2048 / w)).map fun j => r.toNat / 2 ^ (w * j) % 2 ^ w

/-- Packs width-w elements, element 0 lowest (R40). -/
def packNat (w : Nat) : List Nat → Nat
  | [] => 0
  | x :: xs => x % 2 ^ w + 2 ^ w * packNat w xs

def packRow (w : Nat) (l : List Nat) : Row := BitVec.ofNat 2048 (packNat w l)

/-- Lane k of a row. -/
def laneOf (r : Row) (k : Nat) : Nat := r.toNat / 2 ^ (32 * k) % 2 ^ 32

def bitOf {n : Nat} (m : BitVec n) (k : Nat) : Bool := m.getLsbD k

def allLanes : Word := BitVec.allOnes 64

/-- Lane by lane, `a` where the mask has a 1 and `b` elsewhere. -/
def blend (m : Word) (a b : Row) : Row :=
  if m = allLanes then a
  else packRow 32 ((List.range 64).map fun k => if bitOf m k then laneOf a k else laneOf b k)

/-! ## Registers (R74) -/

namespace CoreTask

/-- The routine level: 0 for the kernel text (R84). -/
def level (t : CoreTask) : Nat := t.r.frames.length

/-- Applies a function to the bank of a routine level; a level that has ended holds nothing (R224). -/
def onBank (t : CoreTask) (lvl : Nat) (f : Bank → Bank) : CoreTask :=
  if lvl = t.level then { t with r.b := f t.r.b }
  else if lvl < t.level then
    { t with r.frames := t.r.frames.modify (t.level - 1 - lvl) fun fr => { fr with bank := f fr.bank } }
  else t

/-- Reads s[n] or q[n] of the current level. -/
def sreg (t : CoreTask) : SReg → Word
  | .s n => if n.val < 16 then mget 0 t.r.s n.val else mget 0 t.r.b.s n.val
  | .q n => mget 0 t.r.b.q n.val

def setSReg (t : CoreTask) (lvl : Nat) (r : SReg) (v : Word) : CoreTask :=
  match r with
  | .s n =>
    if n.val < 16 then { t with r.s := mset 0 t.r.s n.val v }
    else t.onBank lvl fun b => { b with s := mset 0 b.s n.val v }
  | .q n => t.onBank lvl fun b => { b with q := mset 0 b.q n.val v }

def latch (t : CoreTask) : Latch → Word
  | .ya => t.r.b.ya
  | .yb => t.r.b.yb
  | .ym => t.r.b.ym

def setLatch (t : CoreTask) (lvl : Nat) (l : Latch) (v : Word) : CoreTask :=
  match l with
  | .ya => t.onBank lvl fun b => { b with ya := v }
  | .yb => t.onBank lvl fun b => { b with yb := v }
  | .ym => t.onBank lvl fun b => { b with ym := v }

def pred (t : CoreTask) (k : Fin 8) : Bool :=
  if k.val < 4 then mget false t.r.p k.val else mget false t.r.b.p k.val

def setPred (t : CoreTask) (lvl : Nat) (k : Fin 8) (v : Bool) : CoreTask :=
  if k.val < 4 then { t with r.p := mset false t.r.p k.val v }
  else t.onBank lvl fun b => { b with p := mset false b.p k.val v }

def mask (t : CoreTask) (k : Fin 4) : Word := mget 0 t.r.mks k.val

def row (t : CoreTask) : RowAt → Row
  | .tile n r => mget 0 t.r.tiles (16 * n + r)
  | .h n => mget 0 t.r.h n
  | .yt => t.r.b.yt

def setRow (t : CoreTask) (lvl : Nat) (d : RowAt) (v : Row) : CoreTask :=
  match d with
  | .tile n r => { t with r.tiles := mset 0 t.r.tiles (16 * n + r) v }
  | .h n => { t with r.h := mset 0 t.r.h n v }
  | .yt => t.onBank lvl fun b => { b with yt := v }

/-- The row of a level's bank for yt; another row has one value. -/
def rowAtLevel (t : CoreTask) (lvl : Nat) (d : RowAt) : Row :=
  match d with
  | .yt =>
    if lvl = t.level then t.r.b.yt
    else match t.r.frames[t.level - 1 - lvl]? with
      | some fr => fr.bank.yt
      | none => 0
  | _ => t.row d

def stage (t : CoreTask) : Stage → Word
  | .d n => mget 0 t.r.dreg n.val
  | .n k => mget 0 t.r.nreg k.val
  | .g n => mget 0 t.r.greg n.val

def setStage (t : CoreTask) (r : Stage) (v : Word) : CoreTask :=
  match r with
  | .d n => { t with r.dreg := mset 0 t.r.dreg n.val v }
  | .n k => { t with r.nreg := mset 0 t.r.nreg k.val v }
  | .g n => { t with r.greg := mset 0 t.r.greg n.val v }

/-- d[n] by number. -/
def dval (t : CoreTask) (n : Nat) : Word := mget 0 t.r.dreg n

/-- Counter w[n]. -/
def ctr (t : CoreTask) (n : Nat) : Nat := (mget 0 t.r.w n).toNat

def addCtr (t : CoreTask) (n k : Nat) : CoreTask := { t with r.w := mmod 0 t.r.w n (· + BitVec.ofNat 32 k) }
def subCtr (t : CoreTask) (n k : Nat) : CoreTask := { t with r.w := mmod 0 t.r.w n (· - BitVec.ofNat 32 k) }

/-- The state of lane k's LFSR (R50). -/
def lfsrOf (t : CoreTask) (k : Nat) : BitVec 32 := mget (lfsrInit k) t.r.lfsr k

def setLfsr (t : CoreTask) (k : Nat) (v : BitVec 32) : CoreTask := { t with r.lfsr := mset (lfsrInit k) t.r.lfsr k v }

/-- Entry (row, column) of an accumulator tile, and its key (R60). -/
def accKey (n : Fin 4) (r c : Nat) : Nat := 1024 * n.val + 32 * r + c
def accEntry (t : CoreTask) (n : Fin 4) (r c : Nat) : Word := mget 0 t.r.acc (accKey n r c)
def setAcc (t : CoreTask) (n : Fin 4) (r c : Nat) (v : Word) : CoreTask :=
  { t with r.acc := mset 0 t.r.acc (accKey n r c) v }
def exponent (t : CoreTask) (n : Fin 4) : Int := (mget 0 t.r.accExp n.val).toInt
def setExponent (t : CoreTask) (n : Fin 4) (e : BitVec 16) : CoreTask :=
  { t with r.accExp := mset 0 t.r.accExp n.val e }

def orFlags (t : CoreTask) (f : Flags) : CoreTask := { t with r.fsr := t.r.fsr ||| f }

/-! ## The routine levels' clauses (R223) -/

/-- The routine of an active level. -/
def routineOf (t : CoreTask) (idx : Nat) : Option Routine := t.code.routines[idx]?

end CoreTask

/-- The flags clause of a contract; a contract with none records no flag (R295, R223). -/
def clauseFlags (cs : List Clause) : Flags :=
  cs.foldl (fun f c => match c with | .flags g => f ||| g | _ => f) 0

/-- Whether the lfsr clauses of a contract hold a lane. -/
def clauseLane (cs : List Clause) (k : Nat) : Bool :=
  cs.any fun c => match c with | .lfsr a b => a ≤ k && k ≤ b | _ => false

namespace CoreTask

/-- The contracts of the active levels, innermost first, with their routine indices. -/
def contracts (t : CoreTask) : List (Nat × List Clause) :=
  t.r.frames.map fun fr => (fr.idx, match t.routineOf fr.idx with | some r => r.clauses | none => [])

/-- The flags that the active levels let a body record (R223): up to the first that an asynchronous call entered at its handover, whose
own levels are those of its call. -/
def flagMask (t : CoreTask) : Flags :=
  go t (t.contracts.zip t.r.frames) 0x3F
where
  go (t : CoreTask) : List ((Nat × List Clause) × Frame) → Flags → Flags
    | [], f => f
    | (c, fr) :: l, f =>
      let f := f &&& clauseFlags c.2 &&& fr.flags
      if fr.saved.isSome then f else go t l f

/-- The innermost routine whose lfsr clause lacks one of the lanes (R223). -/
def laneDenied (t : CoreTask) (lanes : List Nat) : Option Nat :=
  (t.contracts.find? fun c => lanes.any fun k => !clauseLane c.2 k).map (·.1)

/-! ## Results in flight (R69 to R71) -/

/-- The declared latency of a class under the header in force (R69, R220). -/
def latency (t : CoreTask) (cls : Nat) : Nat := t.code.lat.getD cls 1

end CoreTask

/-- The real latency of a class (R69). -/
def realLatency (cls : Nat) : Nat := ([1, 3, 2, 4, 6, 3, 4, 2] : List Nat).getD cls 1

namespace CoreTask

/-- Puts a result in flight with `left` core cycles to its visibility and `real` to its existence (R70). -/
def schedule (t : CoreTask) (left real : Nat) (eff : Eff) (fl : Flags) : CoreTask :=
  { t with pipe.ord := t.pipe.ord + 1,
           pipe.pend := t.pipe.pend ++
             [{ left, real, ord := t.pipe.ord, flags := fl, record := t.flagMask, eff }] }

/-- A result of a latency class (R70). -/
def result (t : CoreTask) (cls : Nat) (eff : Eff) (fl : Flags) : CoreTask :=
  t.schedule (t.latency cls) (realLatency cls) eff fl

/-- A write of fcr, fsr or fm, in force at c + 4 (R79). -/
def shadow (t : CoreTask) (eff : Eff) : CoreTask := t.schedule 4 0 eff 0

end CoreTask

/-- The values of a load's units placed in the lanes of one row, `from` lanes on; excluded lanes are 0. -/
def spread (lanes : Word) : Nat → List Nat → List Nat
  | 0, _ => []
  | k + 1, vals =>
    if bitOf lanes (63 - k) then
      match vals with
      | v :: vs => v :: spread lanes k vs
      | [] => 0 :: spread lanes k []
    else 0 :: spread lanes k vals

/-- The number of enabled lanes. -/
def popcount {n : Nat} (m : BitVec n) : Nat := ((List.range n).filter fun k => bitOf m k).length

namespace CoreTask

/-- Writes a loaded row: the enabled lanes, and zeros elsewhere where the guard zeroes (R196). -/
def loadRow (t : CoreTask) (q : LoadReq) (d : RowAt) (vals : List Nat) : CoreTask :=
  let v := packRow 32 (spread q.lanes 64 vals)
  t.setRow q.lvl d (if q.zero then v else blend q.lanes v (t.rowAtLevel q.lvl d))

/-- Writes a load's destination: a scalar with ym, or its rows (R75, R192, R196, R197). -/
def finishLoad (t : CoreTask) (q : LoadReq) (vals : List Nat) : CoreTask :=
  match q.row with
  | some d =>
    let n := popcount q.lanes
    let t := t.loadRow q d (vals.take n)
    match q.pair with
    | some d2 => t.loadRow q d2 (vals.drop n)
    | none => t
  | none =>
    let x := vals.headD 0
    let v : Word := if q.signed then BitVec.ofInt 64 (sx (8 * q.size) x) else BitVec.ofNat 64 x
    let t := t.setLatch q.lvl .ym v
    match q.dst with
    | some d => t.setSReg q.lvl d v
    | none => t

/-- The lanes a converted accumulator row writes (R183). -/
def accLanes (ty : ElemTy) (half : Bool) : Word :=
  if ty = .i64 then allLanes else if half then BitVec.ofNat 64 (2 ^ 64 - 2 ^ 32) else BitVec.ofNat 64 (2 ^ 32 - 1)

/-- Folds a function over the columns of an accumulator row, collecting flags. -/
def accRow (t : CoreTask) (n : Fin 4) (r : Nat) (f : Nat → Word → Word × Flags) : CoreTask × Flags :=
  (List.range 32).foldl (fun (p : CoreTask × Flags) c =>
    let x := f c (t.accEntry n r c)
    (p.1.setAcc n r c x.1, p.2 ||| x.2)) (t, 0)

/-- Bytes that an accst writes in this cycle (R180, R251); no other path need see them yet (R247). -/
def planeWrites (t : CoreTask) (addr : Nat) (bs : List Byte) (ord : Nat) : CoreTask :=
  { t with lm.plane := t.lm.plane ++ bs.zipIdx.map fun b => { addr := addr + b.2, val := b.1, ord, readers := [0, 2, 3, 4] } }

/-- What a result does when it becomes visible, with the flags found at that moment (R70, R79, R174). -/
def applyEff (t : CoreTask) (ord : Nat) : Eff → CoreTask × Flags
  | .sreg lvl d l v =>
    let t := match l with | some l => t.setLatch lvl l v | none => t
    (match d with | some d => t.setSReg lvl d v | none => t, 0)
  | .pred lvl k b => (t.setPred lvl k b, 0)
  | .mask k v => ({ t with r.mks := mset 0 t.r.mks k.val v }, 0)
  | .stage r v => (t.setStage r v, 0)
  | .row lvl d yt lanes v =>
    let t1 := t.setRow lvl d (blend lanes v (t.rowAtLevel lvl d))
    (if yt then t1.setRow lvl .yt v else t1, 0)
  | .ppac n r v e =>
    t.accRow n r fun c x => accAdd x (v.getD c 0) (e.getD c 0) (t.exponent n)
  | .accz n f k e =>
    ((List.range k).foldl (fun t i => (List.range 32).foldl (fun t c => t.setAcc n (f + i) c 0) t)
      (t.setExponent n e), 0)
  | .accrd n r ty mode ftz d half lfsr =>
    let l := (List.range 32).map fun c => accConvert ty ftz mode (lfsr.getD c 0) (t.accEntry n r c) (t.exponent n)
    let v := if ty = .i64 then packRow 64 (l.map (·.1))
      else packRow 32 ((if half then List.replicate 32 0 else []) ++ l.map (·.1))
    (t.setRow 0 d (blend (accLanes ty half) v (t.row d)), l.foldl (fun f x => f ||| x.2) 0)
  | .accwr n r v => t.accRow n r fun c _ => (v.getD c 0, 0)
  | .accld n f v =>
    ((List.range (v.length / 32)).foldl (fun t i =>
      (List.range 32).foldl (fun t c => t.setAcc n (f + i) c (v.getD (32 * i + c) 0)) t) t, 0)
  | .accst n f k addr =>
    let bytes := (List.range k).flatMap fun i =>
      (List.range 32).flatMap fun c => leBytes 8 (t.accEntry n (f + i) c).toNat
    (t.planeWrites addr bytes ord, 0)
  | .planeBytes addr bs => (t.planeWrites addr bs ord, 0)
  | .accexp n e =>
    let old := t.exponent n
    let p := (List.range 32).foldl (fun (p : CoreTask × Flags) r =>
      let q := p.1.accRow n r fun _ x => accRescale x old e.toInt
      (q.1, p.2 ||| q.2)) (t, 0)
    (p.1.setExponent n e, p.2)
  | .fcr v => ({ t with r.fcr := v }, 0)
  | .fsr v => ({ t with r.fsr := v }, 0)
  | .fm k v => ({ t with r.fm := mset 0 t.r.fm k.val v }, 0)
  | .load q vals => (t.finishLoad q vals, 0)
  | .loadBad q a =>
    ({ t with pipe.loads := t.pipe.loads ++ [{ ord, req := q, vals := [], bad := some a, arrived := false }],
              ctl.due := t.ctl.due ++ [{ cause := 0x0E, sub := 0, cls := 0, val := BitVec.ofNat 64 a, reason := 0 }] }, 0)

end CoreTask

/-- The control-register writes of R79, which land before the flags of the same cycle. -/
def Eff.isCtl : Eff → Bool
  | .fcr _ | .fsr _ | .fm _ _ => true
  | _ => false

namespace CoreTask

/-- Makes one result visible: its effect, and its flags as the levels let them be recorded. -/
def landOne (t : CoreTask) (p : Pend) : CoreTask :=
  let x := t.applyEff p.ord p.eff
  x.1.orFlags ((p.flags ||| x.2) &&& p.record)

/-- Whether a result is due in the next core cycle and does not exist yet (R71). -/
def resultLate (t : CoreTask) : Bool := t.pipe.pend.any fun p => p.left ≤ 1 && 1 < p.real

/-- One frozen compute cycle spent on a late result (R71). -/
def freezeOnResult (t : CoreTask) : CoreTask :=
  { t with pipe.freeze := t.pipe.freeze + 1,
           pipe.pend := t.pipe.pend.map fun p => if p.left ≤ 1 then { p with real := p.real - 1 } else p }

/-- The registers and rows a result writes, as R128 counts them, with the level of its bank. The latch ym of a scalar load counts
as written by it, so that it is pending too (R72; DESIGN CHOICE; notes/assumptions 45). -/
def effDest : Eff → Nat × List Res
  | .sreg lvl d l _ =>
    (lvl, (match d with | some d => [Res.sreg d] | none => []) ++ match l with | some l => [.latch l] | none => [])
  | .pred lvl k _ => (lvl, [.p k])
  | .mask k _ => (0, [.mk k])
  | .stage r _ => (0, [.stage r])
  | .row lvl d yt _ _ => (lvl, rowRes d ++ if yt then [.yt] else [])
  | .accrd _ _ _ _ _ d _ _ => (0, rowRes d)
  | .load q _ | .loadBad q _ => (q.lvl, reqDest q)
  | _ => (0, [])
where
  rowRes : RowAt → List Res
    | .tile n r => [.row (fin 16 n) (fin 16 r)]
    | .h n => [.h (fin 4 n)]
    | .yt => [.yt]
  reqDest (q : LoadReq) : List Res :=
    match q.row with
    | some d => rowRes d ++ match q.pair with | some d2 => rowRes d2 | none => []
    | none => .latch .ym :: match q.dst with | some d => [.sreg d] | none => []

end CoreTask

/-- Whether a resource belongs to a routine level's bank (R74). -/
def resBanked : Res → Bool
  | .sreg (.s n) => 16 ≤ n.val
  | .sreg (.q _) | .latch _ | .yt => true
  | .p k => 4 ≤ k.val
  | _ => false

/-- Whether two resources at two levels are one register. -/
def sameRes (l1 : Nat) (r1 : Res) (l2 : Nat) (r2 : Res) : Bool := r1 == r2 && (!resBanked r1 || l1 == l2)

def clash (x y : Nat × List Res) : Bool := x.2.any fun a => y.2.any fun b => sameRes x.1 a y.1 b

namespace CoreTask

/-- Writes the replies that have arrived and that no earlier-issued result to the same register holds up (R72). -/
def settleLoads (t : CoreTask) : CoreTask :=
  let ready (l : Load) : Bool :=
    l.arrived && !t.pipe.pend.any fun p => p.ord < l.ord && clash (effDest p.eff) (effDest (.load l.req l.vals))
  let go := t.pipe.loads.filter ready
  go.foldl (fun t l => t.finishLoad l.req l.vals) { t with pipe.loads := t.pipe.loads.filter fun l => !ready l }

/-- The start of a core cycle: every result due becomes visible, in issue order, control-register writes first; then
replies held for them (R70, R72, R79). -/
def land (t : CoreTask) : CoreTask :=
  let due := t.pipe.pend.filter fun p => p.left ≤ 1
  let kept := (t.pipe.pend.filter fun p => 1 < p.left).map fun p => { p with left := p.left - 1, real := p.real - 1 }
  let t := { t with pipe.pend := kept, pipe.cycle := t.pipe.cycle + 1, pipe.freeze := 0 }
  let t := (due.filter fun p => p.eff.isCtl).foldl landOne t
  ((due.filter fun p => !p.eff.isCtl).foldl landOne t).settleLoads

/-! ## The scratchpad within a cycle (R251) -/

/-- A scratchpad byte as it stood at the start of the cycle. -/
def scratchByte (t : CoreTask) (a : Nat) : Byte :=
  match t.lm.undo.find? fun c => c.1 = a with
  | some c => c.2
  | none => readByte t.lm.scratch a

/-- The little-endian value of n scratchpad bytes at the start of the cycle. -/
def scratchNat (t : CoreTask) (a n : Nat) : Nat := leNat ((List.range n).map fun i => t.scratchByte (a + i))

/-- Whether a path sees a write of the own scratchpad: always where something orders its reads after the write, else from a cycle of
its own on; the core path sees a copy's delivery after 10,240 cycles (R247, R259). -/
def sees (t : CoreTask) (path : Nat) (e : Behind) : Bool :=
  !e.readers.contains path ||
    Config.seenAfter [e.born, t.id.launch, t.id.idx, t.id.replica, e.ord, e.addr, path] ≤ t.pipe.seen - e.born ||
    (path = 0 && e.path = 2 && 10240 ≤ t.pipe.seen - e.born)

/-- What a path still reads of a byte in place of its newest value: the byte before the first write that comes after the last one it
sees (R258). -/
def stale (t : CoreTask) (path a : Nat) : Option Byte :=
  (t.lm.behind.filter (·.addr = a)).foldl (fun o e => if t.sees path e then none else o.or (some e.old)) none

/-- A scratchpad byte as a path reads it: the newest that it sees (R247, R258). -/
def pathByte (t : CoreTask) (path a : Nat) : Byte := (t.stale path a).getD (t.scratchByte a)

/-- The little-endian value of n scratchpad bytes as a path reads them. -/
def pathNat (t : CoreTask) (path a n : Nat) : Nat := leNat ((List.range n).map fun i => t.pathByte path (a + i))

/-- The whole scratchpad as a path reads it: `behind` undone from its newest write back, at each address down to the newest write that
the path sees. -/
def pathScratch (t : CoreTask) (path : Nat) : Memory :=
  let start := t.lm.undo.foldr (fun c m => writeByte m c.1 c.2) t.lm.scratch
  (t.lm.behind.foldr (fun e (r : Memory × List Nat) =>
    if t.sees path e then (r.1, e.addr :: r.2)
    else if r.2.contains e.addr then r
    else (writeByte r.1 e.addr e.old, r.2)) (start, [])).1

end CoreTask

/-- The writes of which some are ordered before the reads on some paths, and with each those that come before it in its byte's order
(R258); a write that every path sees is forgotten. Beside them stand the addresses of those picked. -/
def passed (sel : Behind → Bool) (rs : Nat → Bool) : List Behind → List Behind × List Nat
  | [] => ([], [])
  | e :: l =>
    let (kept, hit) := passed sel rs l
    let hit := if sel e && !hit.contains e.addr then e.addr :: hit else hit
    let e := if hit.contains e.addr then { e with readers := e.readers.filter fun p => !rs p } else e
    (if e.readers.isEmpty then kept else e :: kept, hit)

namespace CoreTask

/-- Orders some writes of the own scratchpad before the reads on some paths. -/
def pass (t : CoreTask) (sel : Behind → Bool) (rs : Nat → Bool) : CoreTask :=
  { t with lm.behind := if t.lm.behind.any sel then (passed sel rs t.lm.behind).1 else t.lm.behind }

/-- Orders the accesses on the paths of a mask that were issued up to an order before those on the paths of another (R199); with the
core path's accesses, every write that it has seen (R260). -/
def inOrder (t : CoreTask) (a b : BitVec 5) (ord : Nat) : CoreTask :=
  let t := t.pass (fun e => (bitOf a e.path && e.ord ≤ ord) || (bitOf a 0 && !e.readers.contains 0)) (bitOf b)
  { t with lm.plane := t.lm.plane.map fun (w : PlaneWrite) =>
      if bitOf a 1 && w.ord ≤ ord then { w with readers := w.readers.filter fun p => !bitOf b p } else w }

/-- Whether a byte belongs to a completion word. -/
def inWord (w a : Nat) : Bool := w ≤ a && a < w + 4

/-- A wait has observed a completion word: the effects it tells of come before the core's and the plane path's accesses that follow,
and before the engines' later commands where the word is one's own (R248, R263). -/
def observed (t : CoreTask) (w : Nat) : CoreTask :=
  (t.pass (fun e => e.words.any fun x => x.1 = w) (· < 2)).pass (fun e => e.words.contains (w, true)) fun _ => true

/-- A completion word tells of the writes that a test picks (R248). -/
def tells (t : CoreTask) (w : Nat) (engines : Bool) (p : Behind → Bool) : CoreTask :=
  { t with lm.behind := t.lm.behind.map fun (e : Behind) => if p e then { e with words := (w, engines) :: e.words } else e }

/-- A completion word of which a byte that a test picks is overwritten tells of nothing more (R248). -/
def untell (t : CoreTask) (p : Nat → Bool) : CoreTask :=
  { t with lm.behind := t.lm.behind.map fun (e : Behind) =>
      { e with words := e.words.filter fun w => !(List.range 4).any fun i => p (w.1 + i) } }

/-- Whether some bytes hold an address. -/
def within (a n x : Nat) : Bool := a ≤ x && x < a + n

/-- Whether an armed wait reads an address: it sees every write (R251). -/
def watched (t : CoreTask) (a : Nat) : Bool := t.pipe.waits.any fun w => match w with | .word w .. => inWord w a | _ => false

/-- The core path has read n bytes: it has seen what it read (R258, R260). -/
def saw (t : CoreTask) (a n : Nat) : CoreTask := t.pass (fun e => within a n e.addr && t.sees 0 e) (· = 0)

/-- Notes a write of n bytes of the own scratchpad, about to be made: the path that makes it, when it is one, sees it and all before
it, and of the others those named need not (R247, R258). -/
def leaveBehind (t : CoreTask) (a n path ord : Nat) (own : Bool) (readers : List Nat) : CoreTask :=
  let t := if own then t.pass (fun e => within a n e.addr) (· = path) else t
  { t with lm.behind := t.lm.behind ++ (List.range n).filterMap fun i =>
      let rs := if t.watched (a + i) then readers.filter (· ≠ 0) else readers
      if rs.isEmpty then none
      else some { addr := a + i, old := readByte t.lm.scratch (a + i), path, ord, born := t.pipe.seen, readers := rs, words := [] } }

/-- The paths that need not see a write of an engine: every one for the copy path, whose own accesses are unordered, every other one
for the index path (R247). -/
def engineReaders (path : Nat) : List Nat := if path = 3 then [0, 1, 2, 4] else [0, 1, 2, 3, 4]

/-- A scratchpad byte as the plane path reads it: an accst that lands in this cycle is visible to it (R174, R180). -/
def planeByte (t : CoreTask) (a : Nat) : Byte :=
  match t.lm.plane.reverse.find? fun w => w.addr = a with
  | some w => w.val
  | none => t.pathByte 1 a

/-- The little-endian value of n scratchpad bytes as the plane path reads them. -/
def planeNat (t : CoreTask) (a n : Nat) : Nat := leNat ((List.range n).map fun i => t.planeByte (a + i))

/-- Writes one scratchpad byte and sets its region's swizzle tag (0 none, 8 + n span code n; R179). -/
def putScratch (t : CoreTask) (a : Nat) (b : Byte) (tag : BitVec 4) : CoreTask :=
  { t with lm.scratch := writeByte t.lm.scratch a b, lm.tags := mset 0 t.lm.tags (a / 2048) tag }

def putScratches (t : CoreTask) (a : Nat) (bs : List Byte) (tag : BitVec 4) : CoreTask :=
  bs.zipIdx.foldl (fun t b => t.putScratch (a + b.2) b.1 tag) t

/-- Sectors written whole are sound again (R195): those all of whose bytes stand in the list. -/
def soundSectors (t : CoreTask) (spots : List Nat) : CoreTask :=
  if t.lm.bad.isEmpty then t
  else { t with lm.bad := t.lm.bad.filter fun k => !(List.range 32).all fun i => spots.contains (32 * k + i) }

/-- Writes bytes of a scratchpad from an address up, as one write (R195). -/
def putAll (t : CoreTask) (a : Nat) (bs : List Byte) (tag : BitVec 4) : CoreTask :=
  (t.putScratches a bs tag).soundSectors ((List.range bs.length).map (a + ·))

/-- A write by another agent, or one that the task only waits for: every path sees it at once (DESIGN CHOICE; notes/assumptions 14), and a
completion word that it overwrites tells of nothing more. -/
def writeScratch (t : CoreTask) (a : Nat) (bs : List Byte) (tag : BitVec 4) : CoreTask :=
  ((t.pass (fun e => within a bs.length e.addr) fun _ => true).untell (within a bs.length)).putAll a bs tag

/-- A write by a command of the task (R247). -/
def engineWrite (t : CoreTask) (a : Nat) (bs : List Byte) (tag : BitVec 4) (path ord : Nat) : CoreTask :=
  ((t.leaveBehind a bs.length path ord (path = 3) (engineReaders path)).untell (within a bs.length)).putAll a bs tag

/-- Keeps n bytes as they stand, for the reads of this compute cycle (R251). -/
def keepOld (t : CoreTask) (a n : Nat) : CoreTask :=
  { t with lm.undo := t.lm.undo ++ (List.range n).map fun i => (a + i, t.scratchByte (a + i)) }

/-- The task's own core-path store: the old bytes stay readable for this cycle (R251), and other paths need not see the new ones
(R247). -/
def storeScratch (t : CoreTask) (a : Nat) (bs : List Byte) : CoreTask :=
  ((t.keepOld a bs.length).leaveBehind a bs.length 0 t.pipe.ord true [1, 2, 3, 4]).putAll a bs 0

/-- Plane-path writes of neighbouring bytes by one accst, taken together: the first of each run, and the bytes. -/
def runs : List PlaneWrite → List (PlaneWrite × List Byte)
  | [] => []
  | w :: l =>
    match runs l with
    | (v, bs) :: r =>
      if v.addr = w.addr + 1 ∧ v.ord = w.ord ∧ v.readers = w.readers then (w, w.val :: bs) :: r else (w, [w.val]) :: (v, bs) :: r
    | [] => [(w, [w.val])]

/-- The end of the core's own part of a cycle: the plane-path writes are applied after the core-path store (R251), and a completion
word that either has overwritten tells of nothing more (R248). -/
def closeCycle (t : CoreTask) : CoreTask :=
  let w := t.lm.plane
  let t := (runs w).foldl (fun t c =>
      ((t.keepOld c.1.addr c.2.length).leaveBehind c.1.addr c.2.length 1 c.1.ord true c.1.readers).putScratches c.1.addr c.2 0)
    (soundSectors { t with lm.plane := [] } (w.map (·.addr)))
  if t.lm.undo.isEmpty then t else t.untell fun a => t.lm.undo.any (·.1 = a)

/-- The end of a compute cycle at a scratchpad: the stores of peers are applied, by ascending cluster-local index, and what
stood at its start is forgotten (R251). -/
def settleScratch (t : CoreTask) : CoreTask :=
  let w := (List.range 4).flatMap fun k => t.lm.inbox.filter fun p => p.1 = k
  w.foldl (fun t p => t.writeScratch p.2.1 p.2.2 0) { t with lm.inbox := [], lm.undo := [] }

/-! ## Deliveries from outside the core (R73, R370, R383) -/

/-- Whether a marr has arrived at its milestone; it stays in the queue until the milestone fires (R198, R322). -/
def marrArrived (c : Cmd) : Bool := c.op = .marr && c.units = 1

/-- Takes the oldest arrived marr out of a queue. -/
def dropArrived : List Cmd → List Cmd
  | [] => []
  | c :: l => if marrArrived c then l else c :: dropArrived l

/-- Notes the time from which a command's chunks are visible everywhere: that of its latest window (R257). -/
def noteWindow (ord time : Nat) (l : List (Nat × Nat)) : List (Nat × Nat) :=
  let old := ((l.find? fun w => w.1 = ord).map (·.2)).getD 0
  (ord, max old time) :: l.filter fun w => w.1 ≠ ord

/-- The windows of two replicas of a task, each command's latest (R257). -/
def mergeWindows (a b : List (Nat × Nat)) : List (Nat × Nat) := b.foldl (fun l w => noteWindow w.1 w.2 l) a

/-- Flags that an engine command brings: into fsr, and for the native calls that are outstanding (R210). A write of fsr in flight takes
them away again. -/
def bring (t : CoreTask) (f : Flags) : CoreTask :=
  let fsr := t.pipe.pend.any fun p => match p.eff with | .fsr _ => true | _ => false
  { t.orFlags f with eng.natives := t.eng.natives.map fun (c : NativeCall) => if fsr then c else { c with late := c.late ||| f } }

/-- A delivery takes effect. A completion word tells of its command's writes (R248). The completion of a marr writes its word, which
tells of all that the task performed before the marr (R263), takes four off its counter, and frees its entry and its comparator (R203,
R321, R322). -/
def applyDrop (t : CoreTask) : Drop → CoreTask
  | .bytes a bs path ord => t.engineWrite a bs 0 path ord
  | .word a bs path ord => (t.writeScratch a bs 0).tells a true fun e => e.path = path && e.ord = ord
  | .other a bs => t.writeScratch a bs 0
  | .count n k => t.subCtr n k
  | .flags f => t.bring f
  | .marr a v n c =>
    let t := ((t.writeScratch a (leBytes 4 v.toNat) 0).subCtr n 4).tells a false fun e =>
      (t.eng.cmds.find? marrArrived).any fun c => e.ord < c.ord
    { t with pipe.marrs := t.pipe.marrs.drop 1, eng.cmds := dropArrived t.eng.cmds, lm.clock := max c t.lm.clock }

/-- Whether the core's engines stand still: in a freeze (R73), and at the lead from the meeting on that a copy of it follows (R372; DESIGN
CHOICE: while its replies are awaited too, so that nothing of its own is among the deliveries of R383; notes/assumptions 30). -/
def stands (t : CoreTask) : Bool := t.pipe.freeze ≠ 0 || t.held.sync.any fun p => p.1 = t.id.core

/-- Whether deliveries from outside the core wait: in a freeze (R73), and while the task's replicas are brought level (R383). -/
def heldOff (t : CoreTask) : Bool := t.pipe.freeze ≠ 0 || t.held.sync.isSome

/-- The deliveries held back take effect, in the order of their arrival (R73, R383). -/
def settleDrops (t : CoreTask) : CoreTask := t.eng.drops.foldl applyDrop { t with eng.drops := [] }

/-- A delivery reaches a task, after those that were held back. -/
def receive (d : Drop) (t : CoreTask) : CoreTask :=
  if t.heldOff then { t with eng.drops := t.eng.drops ++ [d] } else t.settleDrops.applyDrop d

/-- Bytes that another core's engine writes reach a task: held back only while its replicas are brought level (R383). -/
def receiveOther (a : Nat) (bs : List Byte) (t : CoreTask) : CoreTask :=
  if t.held.sync.isSome then { t with eng.drops := t.eng.drops ++ [.other a bs] } else t.writeScratch a bs 0

/-! ## Traps (R345) -/

/-- Marks the class as not done and records its trap; the lowest class code is reported (R345). -/
def raise (t : CoreTask) (tr : Trap) : CoreTask :=
  { t with pipe.grp.failed := t.pipe.grp.failed ||| BitVec.ofNat 8 (2 ^ tr.cls),
           pipe.grp.trap := match t.pipe.grp.trap with
             | some o => if tr.cls < o.cls then some tr else some o
             | none => some tr }

/-- A trap with no subcode and no reason. -/
def fail (t : CoreTask) (cls cause : Nat) (val : Word) : CoreTask :=
  t.raise { cause, sub := 0, cls, val, reason := 0 }

/-- A syllable would overflow the held set: its group does not issue (R364), or, when the replicas' implicit release before it found
no majority, it reports the mismatch (R369). -/
def overflow (t : CoreTask) (cls : Nat) : CoreTask :=
  match t.held.mismatch with
  | some v => { t with held.mismatch := none }.fail cls 0x11 v
  | none => { t with pipe.grp.back := some .heldSet }

/-- The done mask of the group in issue: present, not failed, not in `waiting`; an LX follows the syllable it extends
(R78). -/
def doneMask (t : CoreTask) (waiting : BitVec 8) : BitVec 32 :=
  let g := t.pipe.grp
  let d := g.present &&& ~~~(g.failed ||| waiting)
  let lx : BitVec 8 := match g.lx with
    | some c => if bitOf d c then 64 else 0
    | none => 0
  BitVec.ofNat 32 ((d &&& 0xBF) ||| lx).toNat

/-- A marr whose meeting a stop breaks off issues again: what it queued is withdrawn (R347, R369). -/
def unfire (t : CoreTask) : CoreTask :=
  match t.pipe.waits.contains (.meet .marr), t.eng.cmds.getLast? with
  | true, some c =>
    if c.op = .marr then
      { t.subCtr c.ctr c.counted with eng.cmds := t.eng.cmds.dropLast, pipe.marrs := t.pipe.marrs.dropLast }
    else t
  | _, _ => t

/-- Taking a trap or another reported stop: xpc, xcause, xval and xmask are written and the task is faulted; the
executive answers with STOP_REPORT (R77, R78, R345). Results in flight keep the cycles that remain from the cycle the
group at xpc issued in (R347); a control syllable that is done keeps its choice for the group's next issue (R345). After an address breakpoint, that one
issue does not match again, whatever stops come before it; a debug stop that is asked for and is not the one reported still follows (R352). An arrival at a
release is withdrawn (R369). -/
def takeTrap (t : CoreTask) (tr : Trap) (pc : Nat) (mask : BitVec 32) (before : Bool) : CoreTask :=
  { t.unfire with
           held.meet := none, held.meetAge := 0, r.xpc := BitVec.ofNat 64 pc,
           r.xcause := BitVec.ofNat 32
             ((if before then 2 ^ 15 else 0) + (if before then 0 else tr.cls) * 2 ^ 12 + tr.sub * 2 ^ 8 + tr.cause),
           r.xval := tr.val, r.xmask := mask, pipe.suppress := BitVec.ofNat 8 mask.toNat,
           held.mismatch := none,
           r.pc := pc, ctl.st := .faulted, ctl.stopVal := some tr, ctl.due := [],
           ctl.dbgReq := t.ctl.dbgReq && !(tr.cause = 0x10 && tr.val.toNat = 2 ^ 33),
           pipe.pend := t.pipe.pend.map fun p => if before then p else
             { p with left := p.left + (t.pipe.cycle - t.pipe.grp.cycle) },
           pipe.kept := if !bitOf mask 5 then none else if before then t.pipe.kept else some t.pipe.grp,
           pipe.waits := [], pipe.barArr := false, pipe.grp := Group.idle, pipe.hold := 0, pipe.ppoint := false,
           pipe.freeze := 0, pipe.recount := t.pipe.grp.issued || t.pipe.recount,
           pipe.bpSkip := (tr.cause = 0x10 && tr.val.toNat / 4 = 2 ^ 30) || t.pipe.bpSkip }

/-- The class whose syllable waits (R345). -/
def waitClass : Wait → Nat
  | .fence .. | .rel _ | .wfence _ => 3
  | .meet .rel => 3
  | .meet .marr => 4
  | _ => 5

/-- The classes still waiting. -/
def waitMask (t : CoreTask) : BitVec 8 :=
  t.pipe.waits.foldl (fun m w => m ||| BitVec.ofNat 8 (2 ^ waitClass w)) 0

def waitLowest (t : CoreTask) : Nat := t.pipe.waits.foldl (fun m w => min m (waitClass w)) 7

/-- A stop that falls before the next group, or at the group the task waits in (R345). A group resumed and not yet
issued keeps its suppressed syllables in xmask (notes/assumptions 7). -/
def stopBetween (t : CoreTask) (tr : Trap) : CoreTask :=
  if t.pipe.waits.isEmpty then t.takeTrap tr t.r.pc (BitVec.ofNat 32 t.pipe.suppress.toNat) true
  else t.takeTrap { tr with cls := t.waitLowest } t.pipe.grp.start (t.doneMask t.waitMask) false

/-- Core cycles that pass with no group: results become visible. -/
def landN : Nat → CoreTask → CoreTask
  | 0, t => t
  | n + 1, t => landN n t.land.closeCycle

/-- A stop taken between two core cycles. Before a group, the results that the cycle of its issue would have made visible
are visible, so that the rest are counted from that cycle (R347). -/
def stopNow (t : CoreTask) (tr : Trap) : CoreTask :=
  if t.pipe.waits.isEmpty then (landN (1 + t.pipe.hold) t).stopBetween tr else t.stopBetween tr

/-- Returning from a stop: the group at the program counter issues with its done syllables suppressed, and does not
count again (R347, R151). A task that was halted stays so. The results in flight are counted from that issue, in whose cycle `land` takes one off again. -/
def resumeFrom (t : CoreTask) : CoreTask :=
  let halted := !bitOf t.pipe.suppress 5 && t.pipe.kept.any (·.halting)
  { t with ctl.st := if halted then .halted else .running, pipe.kept := if halted then none else t.pipe.kept,
           ctl.stopVal := none, ctl.stopReq := false, pipe.interv := 0,
           pipe.pend := t.pipe.pend.map fun p => { p with left := p.left + 1, real := p.real + 1 } }

/-! ## The sequencer's choice (R141) -/

/-- The loop stack after a group, and the next group when a back-edge is taken. -/
def stepLoops (g : Nat) : List LoopEnt → List LoopEnt × Option Nat
  | [] => ([], none)
  | e :: rest =>
    if e.last = g then
      if e.idx + 1 < e.count then ({ e with idx := e.idx + 1 } :: rest, some e.first) else stepLoops g rest
    else (e :: rest, none)

/-- Chooses the next group after the group in issue has ended without a stop (R137, R141). -/
def chooseNext (t : CoreTask) : CoreTask :=
  match t.pipe.grp.xfer with
  | some target => { t with r.pc := target, pipe.grp := Group.idle }
  | none =>
    let l := stepLoops t.pipe.grp.start t.r.b.loops
    { t with r.pc := l.2.getD t.pipe.grp.next, r.b.loops := l.1, pipe.grp := Group.idle }

end CoreTask

namespace State

/-- Changes the task whose turn it is. -/
def onT (s : State) (f : CoreTask → CoreTask) : State := { s with t := f s.t }

/-- Brings a core's task to the front. A core with no task has an empty one. -/
def switchTo (s : State) (k : Nat) : State :=
  if s.t.id.core = k then s
  else
    match s.rest.find? fun t => t.id.core = k with
    | some t => { s with t := t, rest := s.t :: s.rest.filter fun t => t.id.core ≠ k }
    | none => { s with t := CoreTask.empty k, rest := s.t :: s.rest }

/-- Every task of the module, the current one first. -/
def tasks (s : State) : List CoreTask := s.t :: s.rest

/-- Changes the task on a core, without giving it the turn. -/
def onCore (s : State) (k : Nat) (f : CoreTask → CoreTask) : State :=
  if s.t.id.core = k then s.onT f
  else { s with rest := s.rest.map fun t => if t.id.core = k then f t else t }

/-- The task on a core. -/
def taskOn (s : State) (k : Nat) : Option CoreTask := s.tasks.find? fun t => t.id.core = k

/-- Changes every task for which a condition holds, a saved one too. -/
def onWhole (s : State) (p : CoreTask → Bool) (f : CoreTask → CoreTask) : State :=
  { s with t := if p s.t then f s.t else s.t, rest := s.rest.map fun t => if p t then f t else t,
           exe.saved := s.exe.saved.map fun t => if p t then f t else t }

/-- Changes every task for which a condition holds. -/
def onTasks (s : State) (p : CoreTask → Bool) (f : CoreTask → CoreTask) : State :=
  { s with t := if p s.t then f s.t else s.t, rest := s.rest.map fun t => if p t then f t else t }

end State

end Sys2Proof.Machine
end

