-- ==== Sys2Proof/Machine/Cipher.lean ====
section
/-! DEFINITION. The cipher of main memory (15 R269): AES-256 in XTS mode, with the 32-byte sector as the data unit and its physical
address as the tweak. The spec names the standard and does not print it: its tables are the published ones (FIPS 197, IEEE 1619). -/

namespace Sys2Proof.Machine

namespace Cipher

/-! ## Bytes as elements of the field of 256 elements -/

/-- Twice a byte, in the field. -/
def twice (x : Nat) : Nat := if x < 128 then 2 * x else (2 * x) ^^^ 0x11B

/-- A byte times a small constant, bit by bit of the constant. -/
def times : Nat → Nat → Nat → Nat
  | 0, _, _ => 0
  | n + 1, k, x => (if k % 2 = 1 then x else 0) ^^^ times n (k / 2) (twice x)

/-- A byte of a table of 256 bytes, 32 to an entry. -/
def lookUp (table : List Nat) (x : Nat) : Nat := (table.getD (x / 32) 0) / 2 ^ (8 * (x % 32)) % 256

def boxTable : List Nat :=
  [0xC072A49CAFA2D4ADF04759FA7DC982CA76ABD7FE2B670130C56F6BF27B777C63,
   0x75B227EBE28012079A059618C323C7041531D871F1E5A534CCF73F362693FDB7,
   0xCF584C4A39BECB6A5BB1FC20ED00D153842FE329B3D63B52A05A6E1B1A2C8309,
   0xD2F3FF1021DAB6BCF5389D928F40A351A89F3C507F02F94585334D43FBAAEFD0,
   0xDB0B5EDE14B8EE4688902A22DC4F816073195D643D7EA7C41744975FEC130CCD,
   0x08AE7A65EAF4566CA94ED58D6D37C8E779E4959162ACD3C25C2406490A3A32E0,
   0x9E1DC186B95735610EF6034866B53E708A8BBD4B1F74DDE8C6B4A61C2E2578BA,
   0x16BB54B00F2D99416842E6BF0D89A18CDF2855CEE9871E9B948ED9691198F8E1]

def unboxTable : List Nat :=
  [0xCBE9DEC444438E3487FF2F9B8239E37CFBD7F3819EA340BF38A53630D56A0952,
   0x25D18B6D49A25B76B224D92866A12E084EC3FA420B954CEE3D23C2A632947B54,
   0x849D8DA75746155EDAB9EDFD5048706C92B6655DCC5CA4D41698688664F6F872,
   0x6B8A130103BDAFC1020F3FCA8F1E2CD00645B3B80558E4F70AD3BC8C00ABD890,
   0x6EDF751CE837F9E28535ADE72274AC9673E6B4F0CECFF297EADC674F4111913A,
   0xF45ACD78FEC0DB9A2079D2C64B3E56FC1BBE18AA0E62B76F89C5291D711AF147,
   0xEF9CC9939F7AE52D0D4AB519A97F51605FEC8027591012B131C7078833A8DD1F,
   0x7D0C2155631469E126D677BA7E042B17619953833CBBEBC8B0F52AAE4D3BE0A0]

def box (x : Nat) : Nat := lookUp boxTable x
def unbox (x : Nat) : Nat := lookUp unboxTable x

def mix (a b : List Nat) : List Nat := List.zipWith (· ^^^ ·) a b

/-! ## The key schedule -/

/-- The next word of the schedule from the one before it, the one eight before it, and its number. -/
def nextWord (k : Nat) (last back : List Nat) : List Nat :=
  if k % 8 = 0 then
    mix back (mix ((last.drop 1 ++ last.take 1).map box) [(List.range (k / 8 - 1)).foldl (fun x _ => twice x) 1, 0, 0, 0])
  else if k % 8 = 4 then mix back (last.map box)
  else mix back last

/-- Lengthens a schedule, its newest word first, by n words from word k on. -/
def schedule : Nat → Nat → List (List Nat) → List (List Nat)
  | 0, _, ws => ws
  | n + 1, k, ws => schedule n (k + 1) (nextWord k (ws.getD 0 []) (ws.getD 7 []) :: ws)

/-- The fifteen round keys of a 32-byte key. -/
def roundKeys (key : List Nat) : List (List Nat) :=
  let ws := (schedule 52 8 ((List.range 8).map fun k => (key.drop (4 * k)).take 4).reverse).reverse
  (List.range 15).map fun r => ((ws.drop (4 * r)).take 4).flatten

/-! ## Rounds: a block is 16 bytes, byte 4 c + r standing in column c and row r -/

/-- Turns row r of a block by r columns (by 3 r for the way back). -/
def turnRows (step : Nat) (b : List Nat) : List Nat :=
  (List.range 16).map fun i => b.getD (4 * ((i / 4 + step * (i % 4)) % 4) + i % 4) 0

/-- Each column times a fixed circular matrix, whose first row is given. -/
def mixColumns (row : List Nat) (b : List Nat) : List Nat :=
  (List.range 16).map fun i =>
    (List.range 4).foldl (fun x j => x ^^^ times 4 (row.getD ((j + 4 - i % 4) % 4) 0) (b.getD (i / 4 * 4 + j) 0)) 0

def encryptBlock (keys : List (List Nat)) (b : List Nat) : List Nat :=
  let round (b : List Nat) (k : List Nat) : List Nat := mix k (mixColumns [2, 3, 1, 1] (turnRows 1 (b.map box)))
  mix (keys.getD 14 []) (turnRows 1 ((((keys.drop 1).take 13).foldl round (mix (keys.getD 0 []) b)).map box))

def decryptBlock (keys : List (List Nat)) (b : List Nat) : List Nat :=
  let round (b : List Nat) (k : List Nat) : List Nat := mixColumns [14, 11, 13, 9] (mix k ((turnRows 3 b).map unbox))
  mix (keys.getD 0 []) ((turnRows 3 (((keys.drop 1).take 13).reverse.foldl round (mix (keys.getD 14 []) b))).map unbox)

/-! ## The sector -/

/-- The two blocks of a sector, each under its tweak: the second is the first times the field's element 2. -/
def inBlocks (f : List Nat → List Nat) (tweak : Nat) (unit : List Nat) : List Nat :=
  let bytes (t : Nat) : List Nat := (List.range 16).map fun k => t / 2 ^ (8 * k) % 256
  let next := if tweak < 2 ^ 127 then 2 * tweak else (2 * tweak) ^^^ (2 ^ 128 + 0x87)
  let one (t : Nat) (b : List Nat) : List Nat := mix (bytes t) (f (mix (bytes t) b))
  one tweak (unit.take 16) ++ one next (unit.drop 16)

/-- The data key and the tweak of a key pair at an address (R269, R270): [255:0] is the data key. -/
def dataKeys (key : BitVec 512) : List (List Nat) := roundKeys ((leBytes 32 key.toNat).map (·.toNat))

def tweakAt (key : BitVec 512) (pa : Nat) : Nat :=
  let b := encryptBlock (roundKeys ((leBytes 32 (key.toNat / 2 ^ 256)).map (·.toNat))) ((leBytes 16 pa).map (·.toNat))
  (b.zipIdx).foldl (fun n e => n + e.1 * 2 ^ (8 * e.2)) 0

/-- A sector as it stands in memory, and its plaintext again. -/
def encryptUnit (key : BitVec 512) (pa : Nat) (unit : List Nat) : List Nat := inBlocks (encryptBlock (dataKeys key)) (tweakAt key pa) unit
def decryptUnit (key : BitVec 512) (pa : Nat) (unit : List Nat) : List Nat := inBlocks (decryptBlock (dataKeys key)) (tweakAt key pa) unit

/-- What one key reads of a sector that another key wrote (R269). -/
def read (wrote reads : BitVec 512) (pa : Nat) (plain : List Byte) : List Byte :=
  (decryptUnit reads pa (encryptUnit wrote pa (plain.map (·.toNat)))).map fun n => BitVec.ofNat 8 n

end Cipher

end Sys2Proof.Machine
end

