-- ==== Sys2Proof/Machine/Operands.lean ====
section
/-! DEFINITION. The operand forms: scalar sources and guards, tile rows and their guards, the frame around every
syllable, and the judgement of an address (05_encoding R107 to R110, 07 R155 to R157, 03 R80, R81, 10 R222, R226). -/

namespace Sys2Proof.Machine

/-- The outcome of one step of this machine. -/
abbrev Out := Host.Outcome State Fault Refusal

namespace CoreTask

/-- The value of a scalar source (R107, R132). -/
def src (t : CoreTask) : SSrc → Word
  | .reg r => t.sreg r
  | .latch l => t.latch l
  | .const c => c.signExtend 64

/-- Whether a scalar guard lets the syllable act (R109). -/
def guardOn (t : CoreTask) : Guard → Bool
  | none => true
  | some k => t.pred k

/-- Whether a tile guard lets the syllable act at all (R157). -/
def tguardOn (t : CoreTask) : TGuard → Bool
  | .pred k => t.pred ⟨k.val, by omega⟩
  | _ => true

/-- The lanes a tile guard enables (R157). -/
def tlanes (t : CoreTask) : TGuard → Word
  | .merge k | .zero k => t.mask k
  | _ => allLanes

/-- The destination register of a scalar destination. -/
def dstReg : SDst → Option SReg
  | .reg r => some r
  | .latch => none

/-- The rounding mode in force (R45, R158): a reserved fcr code cannot be stored. -/
def rmode (t : CoreTask) : Rnd → RMode
  | .rne => .rne
  | .rtz => .rtz
  | .sr => .sr
  | .fcr => match t.r.fcr.toNat % 4 with
    | 1 => .rtz
    | 2 => .sr
    | _ => .rne

/-- fcr[2] (R47). -/
def ftz (t : CoreTask) : Bool := bitOf t.r.fcr 2

/-- Whether a tile is allocated (R76). -/
def tileOk (t : CoreTask) (n : Nat) : Bool := n < t.code.nTiles

/-- Whether an accumulator tile is enabled (R76). -/
def accOk (t : CoreTask) (n : Fin 4) : Bool := n.val < t.code.nAccs

/-- The index of loop level k, level 0 the outermost; none at or above the depth (R76, R155). -/
def loopIdx (t : CoreTask) (k : Nat) : Option Nat :=
  if k < t.r.b.loops.length then (t.r.b.loops[t.r.b.loops.length - 1 - k]?).map (·.idx) else none

/-- The row a specifier names: none for a gated tile or an index beyond the loop depth (R76, R155). A broadcast names
no row. -/
def rowAt (t : CoreTask) : RowSpec → Option RowAt
  | .row n r => if t.tileOk n.val then some (.tile n.val r.val) else none
  | .idx n k => if t.tileOk n.val then (t.loopIdx k.val).map fun i => .tile n.val (i % 16) else none
  | .h n => some (.h n.val)
  | .yt => some .yt
  | .bcast _ => none

/-- The elements of width w that a row source gives (R155, R156). -/
def rowSrc (t : CoreTask) (w : Nat) : RowSpec → List Nat
  | .bcast s => List.replicate (2048 / w) ((t.src s).toNat % 2 ^ w)
  | r => match t.rowAt r with
    | some x => rowElems w (t.row x)
    | none => []

/-- Whether every row the syllable names exists (R76). -/
def rowsOk (t : CoreTask) (l : List RowSpec) : Bool :=
  l.all fun r => match r with
    | .bcast _ => true
    | r => (t.rowAt r).isSome

/-! ## Footprints (R222, R226) -/

/-- Whether a contract's register clauses hold a resource. -/
def clauseHas (c : Clause) (r : Res) : Bool :=
  match c, r with
  | .sregs m, .sreg (.s n) => n.val < 16 && bitOf m n.val
  | .rows m _, .row n k => bitOf m (16 * n.val + k.val)
  | .rows _ h, .h n => bitOf h n.val
  | .accs m, .acc n _ => bitOf m n.val
  | .accs m, .accExp n => bitOf m n.val
  | .lfsr _ _, .lfsr => true
  | _, _ => false

/-- Whether a syllable names fsr (R152). -/
def namesFlags : Instr → Bool
  | .rdctl _ _ r | .wrctl _ r _ => r = 1
  | .setfcr _ fsr _ => fsr
  | _ => false

/-- Whether a clause holds something that a syllable names: a register, or the flags of fsr (R226). -/
def clauseNamed (rs : List Res) (i : Instr) : Clause → Bool
  | .flags f => f ≠ 0 && namesFlags i
  | c => rs.any (clauseHas c)

/-- The routine of the first outstanding native call whose footprint a syllable touches (R226). The body of a call that
was handed over is no caller's syllable (R233). -/
def outstanding (t : CoreTask) (i : Instr) : Option Nat :=
  if t.eng.natives.isEmpty || t.r.frames.any (·.saved.isSome) then none
  else
    let u := uses (t.r.fcr.toNat % 4 = 2) i
    (t.eng.natives.find? fun c => (t.routineOf c.idx).any fun r => r.clauses.any (clauseNamed (u.reads ++ u.writes) i)).map (·.idx)

/-- Whether the bytes from a up to `last` lie in the union of some ranges; `fuel` bounds the ranges used in turn (R222). -/
def covered (ranges : List (Nat × Nat)) (last : Nat) : Nat → Nat → Bool
  | 0, a => last ≤ a
  | fuel + 1, a =>
    if last ≤ a then true
    else match (ranges.filter fun r => r.1 ≤ a && a < r.1 + r.2) with
      | [] => false
      | l => covered ranges last fuel (l.foldl (fun m r => max m (r.1 + r.2)) a)

/-- The outstanding native call whose scratch ranges some bytes touch (R226). The body of a call that was handed over is no
caller of it (R233). -/
def callTouched (t : CoreTask) (a n : Nat) : Option Nat :=
  if t.r.frames.any (·.saved.isSome) then none
  else (t.eng.natives.find? fun c => c.ranges.any fun r => 0 < n && 0 < r.2 && a < r.1 + r.2 && r.1 < a + n).map (·.idx)

/-- The routine whose footprint an access of own-scratchpad bytes breaks: the body's own ranges, or an outstanding
call's (R222, R226). -/
def rangeFault (t : CoreTask) (a n : Nat) : Option Nat :=
  match t.r.frames with
  | fr :: _ => if covered fr.ranges (a + n) (fr.ranges.length + 1) a then t.callTouched a n else some fr.idx
  | [] => t.callTouched a n

/-- The routine that a peer-window or global access of a body breaks (R222). -/
def bodyFault (t : CoreTask) : Option Nat := t.r.frames.head?.map (·.idx)

/-- The bytes below the stop frame area (R80, R87). -/
def usable (t : CoreTask) : Nat := t.code.share - 0x8000

end CoreTask

/-- The frame around a syllable: a guarded-off one does nothing, a gated tile or a loop index that it names raising nothing either;
one that touches an outstanding call's footprint raises 0x0C, before its other checks (R226; both DESIGN CHOICE; notes/assumptions
46). -/
def syllable (i : Instr) (on : Bool) (s : State) (f : State → State) : Out :=
  .next (if on then
    match s.t.outstanding i with
    | some r => s.onT fun t => t.fail i.cls 0x0C (BitVec.ofNat 64 r)
    | none => f s
    else s)

/-! ## Addresses (R80, R81) -/

/-- Where a byte address of a task reaches. -/
inductive Place where
  | own (a : Nat)
  | peer (core a : Nat)
  | glob (va : Nat)
  | none
  deriving DecidableEq, Repr

namespace State

/-- The task at a cluster-local index of the current task's group (R80). -/
def peer (s : State) (k : Nat) : Option CoreTask :=
  s.tasks.find? fun p => p.id.launch = s.t.id.launch && p.id.gidx = s.t.id.gidx &&
    p.id.replica = s.t.id.replica && p.id.cidx = k && (p.id.launch = 0 || p.id.idx < p.id.cnt)

/-- The address map of R80 and R81. -/
def place (s : State) (a : Nat) : Place :=
  if a < s.t.usable then .own a
  else if 2 ^ 24 ≤ a then (if a < 2 ^ 48 then .glob a else .none)
  else if 0x400000 ≤ a ∧ a < 0x800000 ∧ !s.t.id.ordered then
    match s.peer ((a - 0x400000) / 0x100000) with
    | some p => if a % 0x100000 < p.usable then .peer p.id.core (a % 0x100000) else .none
    | none => .none
  else .none

/-- The routine whose footprint an access of n bytes at an address breaks (R222, R226). -/
def footFault (s : State) (a n : Nat) : Option Nat :=
  match s.place a with
  | .own a => s.t.rangeFault a n
  | .peer core a => s.t.bodyFault.or (if core = s.t.id.core then s.t.callTouched a n else none)
  | _ => s.t.bodyFault

/-- The trap of a core-path access of some units, each an address and its bytes: the first unit misaligned or in a fault
row (0x03), then the first outside a footprint (0x0C). -/
def accessTrap (s : State) (cls align : Nat) (units : List (Nat × Nat)) : Option Trap :=
  match units.find? fun u => u.1 % align != 0 || s.place u.1 == .none with
  | some u => some { cause := 0x03, sub := 0, cls, val := BitVec.ofNat 64 u.1, reason := 0 }
  | none =>
    (units.findSome? fun u => s.footFault u.1 u.2).map fun r =>
      { cause := 0x0C, sub := 0, cls, val := BitVec.ofNat 64 r, reason := 0 }

end State

end Sys2Proof.Machine
end

