-- ==== Sys2Proof/Machine/Memory.lean ====
section
/-! DEFINITION. Memory beyond the scratchpad: main memory under the contexts' keys, pages and their caches, the lease
cache with its timestamps, peers, and the reads and writes of a core's paths (09, 12, 15 R269, 20, 25 R363, R365). -/

namespace Sys2Proof.Machine

/-- The end of physical main memory (R12, R325). -/
def mainEnd : Nat := 0x12000000000

namespace State

/-! ## Main memory under keys (R269) -/

def ctx (s : State) (x : Nat) : Ctx := mget Ctx.free s.exe.ctxs x

def setCtx (s : State) (x : Nat) (f : Ctx → Ctx) : State :=
  { s with exe.ctxs := mmod Ctx.free s.exe.ctxs x f }

/-- Whether a context is resident, or faulted with its partition (R273, R287). -/
def counting (s : State) (x : Nat) : Bool := (s.ctx x).st = .resident

/-- Adds to a performance counter of a context while it is resident (R287, R356). -/
def count (s : State) (x n k : Nat) : State :=
  if k ≠ 0 ∧ s.counting x then
    s.setCtx x fun c => { c with counters := mmod 0 c.counters n (· + BitVec.ofNat 64 k) }
  else s

/-- The key a context's accesses are encrypted under, from the key store (R269, R272). -/
def keyOf (s : State) (x : Nat) : BitVec 512 := mget 0 s.md.keys x

/-- A byte of main memory as a key reads it: its plaintext under the key it was written with, and under another key what that key
makes of the cipher text (R269). A byte that the host wrote reads as it stands (R265), and one that nothing has written as
blankByte. -/
def physByte (s : State) (key : BitVec 512) (pa : Nat) : Byte :=
  if bitOf (mget 0 s.mem.clear (pa / 32)) (pa % 32) then readByte s.mem.phys pa
  else match mget none s.mem.tag (pa / 32) with
  | none => readByte s.mem.phys pa
  | some k =>
    if k = key then readByte s.mem.phys pa
    else (Cipher.read k key (pa / 32 * 32) (readBytes s.mem.phys (pa / 32 * 32) 32)).getD (pa % 32) 0

def physBytes (s : State) (key : BitVec 512) (pa n : Nat) : List Byte :=
  (List.range n).map fun i => s.physByte key (pa + i)

/-- Takes a sector over to a key: what the key reads there becomes its plaintext. -/
def ownSector (s : State) (key : BitVec 512) (sec : Nat) : State :=
  if mget none s.mem.tag sec = some key ∧ mget 0 s.mem.clear sec = 0 then s
  else
    { s with mem.phys := writeBytes s.mem.phys (32 * sec) (s.physBytes key (32 * sec) 32),
             mem.tag := mset none s.mem.tag sec (some key), mem.clear := mset 0 s.mem.clear sec 0 }

/-- Writes bytes within one sector; a write of all 32 makes an uncorrectable sector sound (R195). -/
def physWriteIn (s : State) (key : BitVec 512) (pa : Nat) (bs : List Byte) : State :=
  let s := s.ownSector key (pa / 32)
  { s with mem.phys := writeBytes s.mem.phys pa bs,
           mem.bad := if bs.length = 32 then s.mem.bad.filter (· ≠ pa / 32) else s.mem.bad }

/-- Cuts bytes at the sector boundaries of their addresses, at most `fuel` pieces. -/
def sectorPieces : Nat → Nat → List Byte → List (Nat × List Byte)
  | 0, _, _ => []
  | fuel + 1, a, bs =>
    match bs with
    | [] => []
    | _ =>
      let n := 32 - a % 32
      (a, bs.take n) :: sectorPieces fuel (a + n) (bs.drop n)

def physWrite (s : State) (key : BitVec 512) (pa : Nat) (bs : List Byte) : State :=
  (sectorPieces (bs.length / 32 + 2) pa bs).foldl (fun s p => s.physWriteIn key p.1 p.2) s

/-- Whether a physical byte lies in an uncorrectable sector. -/
def physBad (s : State) (pa : Nat) : Bool := s.mem.bad.contains (pa / 32)

/-! ## Pages (R325 to R328) -/

/-- Whether a leaf permits an access (R327). -/
def permits (l : Leaf) : Need → Bool
  | .r => l.r
  | .w => l.w
  | .rw => l.r && l.w

/-- Reads one level's entry and goes on; the reason of R327 when the walk fails. The list holds the shift and index
width of the levels left; `lvl` counts from 0. -/
def walkFrom (s : State) (x va : Nat) (need : Need) : List (Nat × Nat) → Nat → Nat → Except Nat Leaf
  | [], _, _ => .error 2
  | (sh, bits) :: rest, lvl, base =>
    let e := readNat s.mem.hdm (base + 8 * (va / 2 ^ sh % 2 ^ bits)) 8
    let r := e / 4 % 2 = 1
    let w := e / 8 % 2 = 1
    let addr := e / 2 ^ 12 % 2 ^ 36 * 2 ^ 12
    if e % 2 = 0 then .error 1
    else if e / 16 % 256 ≠ 0 ∨ e / 2 ^ 48 ≠ 0 then .error 2
    else if e / 2 % 2 = 1 then
      if lvl = 0 ∨ addr % 2 ^ sh ≠ 0 ∨ (w ∧ !r) ∨ mainEnd < addr + 2 ^ sh then .error 2
      else
        let l : Leaf := { ctx := x, va := va / 2 ^ sh * 2 ^ sh, size := sh, pa := addr, r, w }
        if permits l need then .ok l else .error 3
    else if rest.isEmpty ∨ r ∨ w then .error 2
    else walkFrom s x va need rest (lvl + 1) addr

/-- A walk of a context's page table (R325, R327). -/
def walk (s : State) (x va : Nat) (need : Need) : Except Nat Leaf :=
  s.walkFrom x va need [(39, 9), (30, 9), (21, 9), (16, 5)] 0 (s.ctx x).cPtroot.toNat

/-- Whether a cached leaf maps an address of a context. -/
def maps (l : Leaf) (x va : Nat) : Bool := l.ctx = x && l.va = va / 2 ^ l.size * 2 ^ l.size

/-- Puts a leaf at the front of a cache of n entries. -/
def cacheLeaf (m : FMap (List Leaf)) (k n : Nat) (l : Leaf) : FMap (List Leaf) :=
  mmod [] m k fun c => (l :: c.filter fun o => o ≠ l).take n

/-- Fills the core, cluster and die caches of a core (R328). -/
def fillTlb (s : State) (core : Nat) (l : Leaf) : State :=
  { s with mem.tlbCore := cacheLeaf s.mem.tlbCore core 64 l,
           mem.tlbCluster := cacheLeaf s.mem.tlbCluster (core / 4) 512 l,
           mem.tlbDie := cacheLeaf s.mem.tlbDie (core / 96) 16384 l }

/-- The cached leaf an access uses, the core's cache first (R328). -/
def cached (s : State) (core x va : Nat) : Option Leaf :=
  ((mget [] s.mem.tlbCore core).find? (maps · x va)).or
    (((mget [] s.mem.tlbCluster (core / 4)).find? (maps · x va)).or
      ((mget [] s.mem.tlbDie (core / 96)).find? (maps · x va)))

/-- Translates one address for a core's access: the cached leaf when there is one, else a walk that fills the caches.
The error is the reason of R327. -/
def translate (s : State) (core x va : Nat) (need : Need) : Except Nat (Nat × State) :=
  match s.cached core x va with
  | some l => if permits l need then .ok (l.pa + va % 2 ^ l.size, s) else .error 3
  | none =>
    match s.walk x va need with
    | .ok l => .ok (l.pa + va % 2 ^ l.size, (s.fillTlb core l).count x 14 1)
    | .error r => .error r

/-- Translates addresses in order; the first that fails is reported with its reason (R332). -/
def translateAll (s : State) (core x : Nat) (need : Need) : List Nat → Except (Nat × Nat) (List Nat × State)
  | [] => .ok ([], s)
  | va :: rest =>
    match s.translate core x va need with
    | .error r => .error (va, r)
    | .ok (pa, s) =>
      match s.translateAll core x need rest with
      | .error e => .error e
      | .ok (l, s) => .ok (pa :: l, s)

/-- The walks of an access that fails, up to the one that fails it: each counts, and those that end in a leaf fill the caches
(R328, R356). -/
def walked (s : State) (core x : Nat) (need : Need) : List Nat → State
  | [] => s
  | va :: rest =>
    match s.translate core x va need with
    | .ok (_, s) => s.walked core x need rest
    | .error _ => if (s.cached core x va).isNone then s.count x 14 1 else s

/-! ## Timestamps (R249, R252) -/

/-- The write timestamp and the lease end of a line at its home. -/
def home (s : State) (line : Nat) : Nat × Nat := mget (0, 0) s.mem.home line

def setHome (s : State) (line : Nat) (p : Nat × Nat) : State :=
  { s with mem.home := mset (0, 0) s.mem.home line p }

/-- Moves a core's clock up. -/
def raiseClock (s : State) (core ts : Nat) : State := s.onCore core fun t => { t with lm.clock := max t.lm.clock ts }

def clockOf (s : State) (core : Nat) : Nat := (s.taskOn core).elim 0 (·.lm.clock)

/-- The clocks of two cores that meet at a scratchpad come level, so that R249 spans both memories. -/
def meetClocks (s : State) (a b : Nat) : State :=
  let c := max (s.clockOf a) (s.clockOf b)
  (s.raiseClock a c).raiseClock b c

/-- A store of bytes within one line: a timestamp above every lease granted on it (R252). -/
def storeLine (s : State) (core : Nat) (key : BitVec 512) (pa : Nat) (bs : List Byte) : State :=
  let h := s.home (pa / 128)
  let ts := max (s.clockOf core) (max h.1 (h.2 + 1))
  let s := (s.setHome (pa / 128) (ts, ts)).physWrite key pa bs
  s.onCore core fun t =>
    { t with lm.clock := ts, lm.leases := t.lm.leases.filter fun l => l.line ≠ pa / 128 }

/-- The lines that the cache portion of a core holds (R82). -/
def cacheLines (share : Nat) : Nat := (0x100000 - share) / 128

/-- The lowest place from k up that no line takes; `fuel` bounds the search. -/
def freePlace (ls : List Lease) : Nat → Nat → Nat
  | 0, k => k
  | fuel + 1, k => if ls.any (·.slot = k) then freePlace ls fuel (k + 1) else k

/-- Puts a line into the lease cache: into a free place, else into that of the line fetched longest ago
(notes/assumptions 41). -/
def fillLease (share : Nat) (ls : List Lease) (line : Nat) (data : BitVec 1024) (last : Nat) : List Lease :=
  let others := ls.filter fun l => l.line ≠ line
  if cacheLines share = 0 then others
  else
    let kept := others.take (cacheLines share - 1)
    { line, slot := freePlace kept kept.length 0, data, last } :: kept

/-- The lease a core holds on a line at its clock. -/
def leaseOf (s : State) (core line : Nat) : Option Lease :=
  ((s.taskOn core).elim [] (·.lm.leases)).find? fun l => l.line = line && s.clockOf core ≤ l.last

/-- A load of bytes within one line: from the cached line while its lease holds, else by renewing it (R252).
A line that holds an uncorrectable sector is read and not kept: there is no value of it to lease. -/
def loadLine (s : State) (core : Nat) (key : BitVec 512) (pa n : Nat) : List Byte × State :=
  let line := pa / 128
  let clock := s.clockOf core
  match s.leaseOf core line with
  | some l => ((leBytes 128 l.data.toNat).drop (pa % 128) |>.take n, s)
  | none =>
    let h := s.home line
    let c := max clock h.1
    let bytes := s.physBytes key (128 * line) 128
    let s := s.setHome line (h.1, max h.2 (c + 8))
    let s := s.onCore core fun t =>
      { t with lm.clock := c,
               lm.leases :=
                 if (List.range 4).any fun i => s.physBad (128 * line + 32 * i) then
                   t.lm.leases.filter fun l => l.line ≠ line
                 else fillLease t.code.share t.lm.leases line (BitVec.ofNat 1024 (leNat bytes)) (c + 8) }
    ((bytes.drop (pa % 128)).take n, s)

/-- An engine's read of bytes within one line, at its home. -/
def engineLine (s : State) (core : Nat) (key : BitVec 512) (pa n : Nat) : List Byte × State :=
  let h := s.home (pa / 128)
  let c := max (s.clockOf core) h.1
  let s := s.setHome (pa / 128) (h.1, max h.2 c)
  (s.physBytes key pa n, s.raiseClock core c)

/-! ## Held bytes (R363, R365) -/

end State

/-- Whether the task's global writes are held (R363). -/
def CoreTask.holds (t : CoreTask) : Bool := 1 < t.id.copies || t.id.ordered

/-- The held byte of a virtual address (R365). -/
def CoreTask.heldByte (t : CoreTask) (va : Nat) : Option Byte :=
  let e := mget { mask := 0, data := 0 } t.held.sectors (va / 32)
  if bitOf e.mask (va % 32) then some (BitVec.ofNat 8 (e.data.toNat / 2 ^ (8 * (va % 32)))) else none

/-- Merges one byte into the held set (R363). -/
def CoreTask.holdByte (t : CoreTask) (va : Nat) (b : Byte) : CoreTask :=
  let e := mget { mask := 0, data := 0 } t.held.sectors (va / 32)
  let sh := 8 * (va % 32)
  let data := (e.data &&& ~~~(BitVec.ofNat 256 (255 * 2 ^ sh))) ||| BitVec.ofNat 256 (b.toNat * 2 ^ sh)
  { t with held.sectors := mset { mask := 0, data := 0 } t.held.sectors (va / 32)
             { mask := e.mask ||| BitVec.ofNat 32 (2 ^ (va % 32)), data } }

/-- Whether a set of sectors respects the limits of R364: 1,024 sectors, 6 held lines in a set. -/
def heldFits (share : Nat) (secs : List Nat) : Bool :=
  let lines := (secs.map (· / 4)).eraseDups
  let sets := (0x100000 - share) / 1024
  secs.length ≤ 1024 &&
    lines.all fun l => (lines.filter fun k => k % sets = l % sets).length ≤ 6

/-- Whether holding more sectors would exceed R364. -/
def CoreTask.heldRoom (t : CoreTask) (secs : List Nat) : Bool :=
  heldFits t.code.share ((t.held.sectors.map (·.1) ++ secs).eraseDups)

/-- mix (R366). -/
def mix (a b : Word) : Word :=
  let x := a * 0x9E3779B97F4A7C15 + b
  let x := (x ^^^ (x >>> 30)) * 0xBF58476D1CE4E5B9
  let x := (x ^^^ (x >>> 27)) * 0x94D049BB133111EB
  x ^^^ (x >>> 31)

/-- The bits of the read signature that a line sets (R376). -/
def sigBits (line : Nat) : BitVec 2048 :=
  let l := BitVec.ofNat 64 (128 * line)
  BitVec.ofNat 2048 (2 ^ ((mix l 1).toNat % 2048)) ||| BitVec.ofNat 2048 (2 ^ ((mix l 2).toNat % 2048))

/-- Whether a line hits a read signature (R376). -/
def hits (sig : BitVec 2048) (line : Nat) : Bool := sig &&& sigBits line = sigBits line

/-- A task's place in the commit order. -/
def Launch.rank (l : Launch) (idx : Nat) : Nat :=
  if l.order.isEmpty then idx else l.order.findIdx fun p => p.2 = idx

/-- Notes a line that an ordered task has read (R376). -/
def CoreTask.noteRead (t : CoreTask) (va : Nat) : CoreTask :=
  if t.id.ordered then { t with held.readSig := t.held.readSig ||| sigBits (va / 128) } else t

namespace State

/-! ## The core path (R193) -/

/-- One unit of a core-path read by the current task: its value, and the address of its first byte in an
uncorrectable sector (R195). `pa` is the translation of a global address. -/
def loadUnit (s : State) (a pa n : Nat) : Nat × Option Nat × State :=
  let own (off : Nat) : Nat × Option Nat × State :=
    let bad := (List.range n).find? fun i => s.t.lm.bad.contains ((off + i) / 32)
    (s.t.pathNat 0 off n, bad.map (a + ·), s.onT (·.saw off n))
  match s.place a with
  | .own off => own off
  | .peer core off =>
    if core = s.t.id.core then own off
    else
      let v := (s.taskOn core).elim 0 fun p => p.scratchNat off n
      let bad := (List.range n).find? fun i => (s.taskOn core).elim false fun p => p.lm.bad.contains ((off + i) / 32)
      (v, bad.map (a + ·), s.meetClocks s.t.id.core core)
  | .glob va =>
    let bad := (List.range n).find? fun i => (s.t.heldByte (va + i)).isNone && s.physBad (pa + i)
    let s := s.count s.t.id.ctx (if (s.leaseOf s.t.id.core (pa / 128)).isSome then 12 else 13) 1
    let r := s.loadLine s.t.id.core (s.keyOf s.t.id.ctx) pa n
    let bytes := r.1.zipIdx.map fun b => (s.t.heldByte (va + b.2)).getD b.1
    (leNat bytes, bad.map (va + ·), r.2.onT (·.noteRead va))
  | .none => (0, none, s)

/-- One unit of a core-path write by the current task. -/
def storeUnit (s : State) (a pa : Nat) (bs : List Byte) : State :=
  match s.place a with
  | .own a => s.onT (·.storeScratch a bs)
  | .peer core off =>
    let s := s.meetClocks s.t.id.core core
    if core = s.t.id.core then s.onT (·.storeScratch off bs)
    else s.onCore core fun p => { p with lm.inbox := p.lm.inbox ++ [(s.t.id.cidx % 4, off, bs)] }
  | .glob va =>
    if s.t.holds then s.onT fun t => bs.zipIdx.foldl (fun t b => t.holdByte (va + b.2) b.1) t
    else s.storeLine s.t.id.core (s.keyOf s.t.id.ctx) pa bs
  | .none => s

/-- The global addresses among some units. -/
def globals (s : State) (addrs : List Nat) : List Nat :=
  addrs.filter fun a => match s.place a with | .glob _ => true | _ => false

/-- Translates the global units of a core-path access and hands back the translation of every unit (0 for a local
one); a failure is 0x04 with the lowest failing address (R194, R332). -/
def translateUnits (s : State) (cls : Nat) (need : Need) (addrs : List Nat) : Except Trap (List Nat × State) :=
  match s.translateAll s.t.id.core s.t.id.ctx need (s.globals addrs) with
  | .error (va, r) => .error { cause := 0x04, sub := 0, cls, val := BitVec.ofNat 64 va, reason := r }
  | .ok (pas, s') => .ok (place2 (addrs.map fun a => match s.place a with | .glob _ => true | _ => false) pas, s')
where
  place2 : List Bool → List Nat → List Nat
    | [], _ => []
    | true :: bs, p :: ps => p :: place2 bs ps
    | _ :: bs, ps => 0 :: place2 bs ps

/-- Reads every unit in order: the values, the first bad byte, and the state after. -/
def loadUnits (s : State) (n : Nat) : List (Nat × Nat) → List Nat × Option Nat × State
  | [] => ([], none, s)
  | (a, pa) :: rest =>
    let (v, bad, s) := s.loadUnit a pa n
    let (vs, bad2, s) := s.loadUnits n rest
    (v :: vs, bad.or bad2, s)

/-- Puts an address before the first that is not lower. -/
def insertLow (a : Nat) : List Nat → List Nat
  | [] => [a]
  | b :: l => if a ≤ b then a :: b :: l else b :: insertLow a l

/-- Addresses as a load is judged: the lowest first (R194, R332, R345); for a gather too, though R197 names its lowest lane (DEDUCED;
notes/assumptions 57). -/
def lowestFirst (addrs : List Nat) : List Nat := addrs.foldr insertLow []

/-- Whether every unit lies in the task's own scratchpad, by its own address. -/
def allOwn (s : State) (addrs : List Nat) : Bool :=
  addrs.all fun a => match s.place a with | .own _ => true | _ => false

/-- A load of the MM slot (R192 to R197): judged, translated, bound, and put in flight with the fixed latency of class 5
or scoreboarded. `forced` makes it scoreboarded wherever it goes (tldg). -/
def load (s : State) (q : LoadReq) (align : Nat) (forced : Bool) : State :=
  match s.accessTrap 3 align ((lowestFirst q.addrs).map fun a => (a, q.size)) with
  | some tr => s.onT (·.raise tr)
  | none =>
    match s.translateUnits 3 .r q.addrs with
    | .error tr =>
      (s.walked s.t.id.core s.t.id.ctx .r (s.globals (lowestFirst q.addrs))).onT
        (·.raise (match s.translateUnits 3 .r (lowestFirst q.addrs) with | .error t => t | .ok _ => tr))
    | .ok (pas, s) =>
      let (vals, bad, s') := s.loadUnits q.size (q.addrs.zip pas)
      if s.allOwn q.addrs && !forced then
        s'.onT fun t => t.result 5 (match bad with | some a => .loadBad q a | none => .load q vals) 0
      else
        s'.onT fun t =>
          { t with pipe.ord := t.pipe.ord + 1,
                   pipe.loads := t.pipe.loads ++ [{ ord := t.pipe.ord, req := q, vals, bad, arrived := false }] }

/-- A store of the MM slot (R192 to R196): the units and their bytes. A store that would overflow the held set does
not issue (R364). -/
def store (s : State) (align : Nat) (units : List (Nat × List Byte)) : State :=
  let addrs := units.map (·.1)
  match s.accessTrap 3 align (units.map fun u => (u.1, u.2.length)) with
  | some tr => s.onT (·.raise tr)
  | none =>
    match s.translateUnits 3 .w addrs with
    | .error tr => (s.walked s.t.id.core s.t.id.ctx .w (s.globals addrs)).onT (·.raise tr)
    | .ok (pas, s) =>
      if s.t.holds && !s.t.heldRoom ((s.globals addrs).map (· / 32)) then
        s.onT (·.overflow 3)
      else (units.zip pas).foldl (fun s u => s.storeUnit u.1.1 u.2 u.1.2) s

end State

end Sys2Proof.Machine
end

