-- ==== Sys2Proof/Machine/Waits.lean ====
section
/-! DEFINITION. What holds a task inside an issued group: when each wait ends, the barrier, and the end of the group
(06 R145 to R150, 09 R199, R200, 13 R257, 19 R315, R316, 22 R345). -/

namespace Sys2Proof.Machine

/-- serial_ge (R38). -/
def serialGe (a b : BitVec 32) : Bool := (a - b).toNat < 2 ^ 31

/-- The conditions of wait (R145). -/
def waitCond (cc : WCond) (w v : BitVec 32) : Bool :=
  match cc with
  | .eq => w = v
  | .ne => w ≠ v
  | .ge => serialGe w v
  | .lt => !serialGe w v

/-- The kind of an engine address (R204). -/
def kindOf (a : Word) : Nat := a.toNat / 2 ^ 60

/-- The path of an engine command: copy 2, index 3, link 4 (R198). -/
def cmdPath (c : Cmd) : Nat :=
  match c.op with
  | .ixst | .ixend => 3
  | .cpyl | .cpyx => 4
  | .sig => if kindOf (c.d.getD 1 0) = 2 then 4 else 2
  | _ => 2

namespace CoreTask

/-- Whether a core's cycles advance its results (R67, R150). -/
def active (t : CoreTask) : Bool := t.ctl.st = .running || t.ctl.st = .waiting || t.ctl.st = .halted

/-- Starts waiting inside the group (R345). -/
def await (t : CoreTask) (w : Wait) : CoreTask :=
  { t with pipe.waits := t.pipe.waits ++ [w], ctl.st := .waiting }

/-- Whether every access on the paths of a mask, issued before a point of the task's order, is performed (R198, R199).
Core-path accesses are performed at issue; held commands wait for their release, not for a fence (notes/assumptions
8). A marr counts until its milestone has fired (R198), and a command that another replica executes until it has completed
(R370). -/
def performed (t : CoreTask) (paths : BitVec 5) (ord : Nat) : Bool :=
  (!bitOf paths 1 || !t.pipe.pend.any fun p =>
    p.ord < ord && match p.eff with | .accst .. | .planeBytes .. => true | _ => false) &&
  (t.eng.cmds.all fun c => c.held || ord ≤ c.ord || !bitOf paths (cmdPath c)) &&
  t.eng.away.all fun c => ord ≤ c.ord || !bitOf paths c.path

/-- The first byte of a waited word in an uncorrectable sector (R145, R195). -/
def wordBad (t : CoreTask) (a : Nat) : Option Nat :=
  ((List.range 4).find? fun i => t.lm.bad.contains ((a + i) / 32)).map (a + ·)

/-- A task that waits on a word in an uncorrectable sector has consumed it: 0x0E at its waiting group, once (R195, R345; DEDUCED;
notes/assumptions 46). -/
def badWords (t : CoreTask) : CoreTask :=
  t.pipe.waits.foldl (fun t w => match w with
    | .word a .. =>
      match t.wordBad a with
      | some b =>
        let tr : Trap := { cause := 0x0E, sub := 0, cls := 0, val := BitVec.ofNat 64 b, reason := 0 }
        if t.ctl.due.contains tr then t else { t with ctl.due := t.ctl.due ++ [tr] }
      | none => t
    | _ => t) t

/-- Whether every link-path write issued before a point has been admitted (R257). -/
def admitted (t : CoreTask) (ord : Nat) : Bool :=
  (t.eng.cmds.all fun c => ord ≤ c.ord || cmdPath c != 4 || c.units == c.total) &&
    t.eng.away.all fun c => ord ≤ c.ord || c.path != 4 || c.admitted

end CoreTask

namespace State

/-- Runs a function with a core's task at the front; nothing happens when the core holds none. -/
def atCore (s : State) (k : Nat) (f : State → State) : State :=
  match s.taskOn k with
  | some _ => (f (s.switchTo k)).switchTo s.t.id.core
  | none => s

/-- Device time in nanoseconds: two core cycles each, and what synchronisation has added (R339). -/
def deviceTime (s : State) : Nat := ((s.now / 2 : Nat) + s.timeOff).toNat

/-- The device time of the next compute cycle. -/
def nextTime (s : State) : Nat := (((s.now + 1) / 2 : Nat) + s.timeOff).toNat

/-- Whether a compute cycle is over: every core has had its turn in it. -/
def between (s : State) : Bool := s.tasks.all fun t => s.now ≤ t.pipe.seen

/-- Whether engines may deliver: a compute cycle is over, and no wait has been judged at its end (R251). -/
def delivering (s : State) : Bool := s.between && s.judged ≤ s.now

/-- Whether two tasks belong to one placement of a group (R304). -/
def mates (a b : CoreTask) : Bool :=
  a.id.core = b.id.core ||
    (a.id.launch != 0 && a.id.launch = b.id.launch && a.id.gidx = b.id.gidx && a.id.replica = b.id.replica)

/-- Whether two tasks are replicas of one task (R305). -/
def replicas (a b : CoreTask) : Bool := a.id.launch = b.id.launch && a.id.idx = b.id.idx

/-- Whether commands published for the current task's replica set are still to complete (R370). -/
def pubOutstanding (s : State) : Bool := s.tasks.any fun p => replicas s.t p && p.eng.cmds.any (·.pub)

/-- Whether a wait of the current task is over. A word in an uncorrectable sector satisfies nothing (R145, R195). -/
def waitOver (s : State) : Wait → Bool
  | .word a cc v _ _ _ => (s.t.wordBad a).isNone && waitCond cc (BitVec.ofNat 32 (readNat s.t.lm.scratch a 4)) v
  | .ctr n thr => s.t.ctr n ≤ thr
  | .bar => false
  | .barLeft a => a < s.now
  | .fence a _ ord => s.t.performed a ord
  | .rel ord => s.t.performed 0x1F ord && !s.pubOutstanding
  | .wfence ord => s.t.admitted ord && s.t.eng.linkWins.all fun w => ord ≤ w.1 || w.2 ≤ s.deviceTime
  | .meet _ => false
  | .halt => s.t.eng.natives.isEmpty && !s.pubOutstanding
  | .native => s.t.eng.natives.all fun c => c.ctr.isSome

/-- The last arrival at a group's barrier: every arrived task leaves, and the clocks of the group come level so that
R249 puts what was before the bar before what is after it (R147, R315, R316). -/
def barrier (s : State) : State :=
  let grp := s.tasks.filter (mates s.t)
  if (grp.any fun t => t.pipe.barArr) && (grp.all fun t => t.pipe.barArr || t.ctl.st = .halted) then
    let c := grp.foldl (fun m t => max m t.lm.clock) 0
    s.onTasks (fun t => mates s.t t && t.pipe.barArr) fun t =>
      { t with pipe.barArr := false, lm.clock := c,
               pipe.waits := t.pipe.waits.map fun w => if w = .bar then .barLeft s.now else w }
  else s

/-- The end of the group in issue, when nothing of it still waits: a trap or brk stop, a halt, or the sequencer's
choice (R141, R150, R151). -/
def endGroup (s : State) : State :=
  let t := s.t
  match t.pipe.grp.soft with
  | some tr => s.onT fun t => { t with pipe.grp.soft := none }.takeTrap tr t.pipe.grp.start (t.doneMask 0) false
  | none =>
    if t.pipe.grp.halting then
      (s.onT fun t => { t with ctl.st := .halted, pipe.grp := Group.idle, r.pc := t.pipe.grp.next }).barrier
    else
      let back := t.pipe.grp.xfer.isNone && (CoreTask.stepLoops t.pipe.grp.start t.r.b.loops).2.isSome
      s.onT fun t => { t.chooseNext with pipe.ppoint := t.pipe.ppoint || back, ctl.st := .running }

/-- What a fence orders once its condition holds (R199, R200). -/
def ordered (t : CoreTask) : Wait → CoreTask
  | .fence a b ord => t.inOrder a b ord
  | .rel ord => t.inOrder 0x1F 0x1F ord
  | _ => t

/-- Ends a wait of the current task: a wait with a timeout writes its predicate, for the next group to see, after every result issued
before it (R70, R145). A fence, and a completion word observed, order what they name (R199, R200, R248). -/
def endWait (s : State) (w : Wait) (timedOut : Bool) : State :=
  s.onT fun t =>
    let t := { t with pipe.waits := t.pipe.waits.filter (· ≠ w) }
    match w with
    | .word a _ _ timed _ k =>
      let t := if timedOut then t else t.observed a
      let t := if timed then t.schedule 1 0 (.pred t.level k timedOut) 0 else t
      if timedOut && t.id.ordered then
        { t with held.inputs := t.held.inputs ++ [(2, t.r.lcycle, 1)] }
      else t
    | w => ordered t w

/-- The end of a waiting core cycle: the timeouts lose one cycle (R145). -/
def tickWaits (s : State) : State :=
  s.onT fun t => { t with pipe.waits := t.pipe.waits.map fun w =>
    match w with
    | .word a cc v true left k => .word a cc v true (left - 1) k
    | w => w }

/-- The group in issue ends when the last of its waits has. -/
def endLast (before after : State) : State :=
  if !before.t.pipe.waits.isEmpty && after.t.pipe.waits.isEmpty then after.endGroup else after

/-- Ends the waits of a kind that are over, and the group when none is left. -/
def endSome (s : State) (kind : Wait → Bool) : State :=
  endLast s (s.t.pipe.waits.foldl (fun s w => if kind w && s.waitOver w then s.endWait w false else s) s)

/-- Whether the current task has had a compute cycle since the one that its group issued in; the word of a wait is not judged before
(R246; notes/assumptions 10). -/
def armed (s : State) : Bool := s.t.pipe.grp.cycle < s.t.pipe.cycle

/-- A timeout that is spent ends its wait, unsatisfied: the predicate is set; a wait whose condition holds by then, and may be judged, is
satisfied (R145). A barrier left in an earlier compute cycle lets its task go (R147). -/
def expireWaits (s : State) : State :=
  endLast s (s.t.pipe.waits.foldl (fun s w => match w with
    | .word _ _ _ true 0 _ => if s.armed && s.waitOver w then s else s.endWait w true
    | .barLeft a => if a < s.now then s.endWait w false else s
    | _ => s) s)

/-- A task that a stop finds between the last arrival at its barrier and the cycle after leaves with its peers, its bar done (R147,
R315). -/
def leaveBar (s : State) : State :=
  endLast s (s.t.pipe.waits.foldl (fun s w => match w with | .barLeft _ => s.endWait w false | _ => s) s)

/-- Whether a wait is a wait's own word. -/
def isWord : Wait → Bool
  | .word .. => true
  | _ => false

/-- What ended with the last compute cycle, before the next: the waits that its end found over, each judged once on the bytes
as they stood then, not in a frozen cycle, and a word not in the cycle that armed it (R145, R146, R246, R251); then the timeouts that
are spent. -/
def endWaits (s : State) : State :=
  (if s.t.pipe.freeze = 0 then s.endSome fun w => !isWord w || s.armed else s).expireWaits.onT
    (·.badWords)

end State

end Sys2Proof.Machine
end

