-- ==== Sys2Proof/Machine/Milestones.lean ====
section
/-! DEFINITION. The milestone store (19_barriers R317 to R324). -/

namespace Sys2Proof.Machine

namespace State

/-- Milestone m of a context. -/
def mileKey (x m : Nat) : Nat := 256 * x + m

def mile (s : State) (k : Nat) : Milestone := mget Milestone.free s.mem.miles k

def setMile (s : State) (k : Nat) (m : Milestone) : State :=
  { s with mem.miles := mset Milestone.free s.mem.miles k m }

/-- Whether a task is the participant of an arrival; every replica is (R370). -/
def isParticipant (a : MArrival) (t : CoreTask) : Bool := t.id.launch = a.launch && t.id.idx = a.task

/-- Evaluates a milestone: it fires when every arrival is in and no byte is pending, and no error stands (R321, R324). A saved
participant receives its word in its saved state (R322); a frozen core, and a task brought level, later (R73, R383). What any participant performed before its marr comes before what
follows the completion word at the others (R263). -/
def evalMile (s : State) (k : Nat) : State :=
  let m := s.mile k
  if m.arrived ≠ 0 ∧ m.arrived = m.expect ∧ m.pend = 0 ∧ m.err = 0 then
    let part (t : CoreTask) : Bool := m.list.any fun a => isParticipant a t
    let c := ((s.tasks ++ s.exe.saved).filter part).foldl (fun c t => max c t.lm.clock) 0
    let all (t : CoreTask) : CoreTask :=
      m.list.foldl (fun t a => if isParticipant a t then t.receive (.marr a.addr a.val a.ctr c) else t) t
    (s.onWhole part all).setMile k
      { m with gen := m.gen + 1, arrived := 0, list := [] }
  else s

/-- A milestone-counted delivery of n destination bytes (R320); the milestone is evaluated once every subtraction of the cycle
is in (R321). -/
def countMile (s : State) (x : Nat) (tag : BitVec 16) (n : Nat) : State :=
  if bitOf tag 15 then
    let k := mileKey x (tag.toNat % 256)
    let m := s.mile k
    s.setMile k { m with pend := m.pend - BitVec.ofNat 32 n }
  else s

/-- The evaluation that follows the subtractions of a compute cycle (R321). -/
def evalMiles (s : State) : State := s.mem.miles.foldl (fun s e => s.evalMile e.1) s

/-- An arrival (R317, R319, R324): the reason of a milestone error, or the state after. A milestone that the subtractions of the
cycle have completed fires first, and the arrival belongs to the next generation: only one that still awaits bytes refuses it
(R321, R324). -/
def arrive (s : State) (x m launch taskCount : Nat) (a : MArrival) (d7 : Word) : Except Unit State :=
  let k := mileKey x m
  let s := s.evalMile k
  let ms := s.mile k
  let p := BitVec.ofNat 32 d7.toNat
  let xx := d7.toNat / 2 ^ 32
  let expect := if xx = 0 then taskCount else xx
  if ms.owner.any (· ≠ launch) ∨ ms.err ≠ 0 then .error ()
  else if ms.arrived ≠ 0 ∧ ms.expect ≠ expect then .error ()
  else if ms.arrived ≠ 0 ∧ ms.arrived = ms.expect then .error ()
  else
    .ok ((s.setMile k { ms with
      owner := some launch, expect := if ms.arrived = 0 then expect else ms.expect, arrived := ms.arrived + 1,
      pend := ms.pend + p, list := ms.list ++ [a] }).evalMile k)

/-- The error a milestone keeps after a refused arrival (R324): 1 a differing expectation, 2 an arrival too many. -/
def keepMileErr (s : State) (x m launch taskCount : Nat) (d7 : Word) : State :=
  let k := mileKey x m
  let ms := s.mile k
  let xx := d7.toNat / 2 ^ 32
  let expect := if xx = 0 then taskCount else xx
  if ms.owner.any (· ≠ launch) ∨ ms.err ≠ 0 then s
  else s.setMile k { ms with err := if ms.expect ≠ expect then 1 else 2 }

/-- Frees every milestone that a launch owns (R317). -/
def freeMiles (s : State) (launch : Nat) : State :=
  { s with mem.miles := s.mem.miles.filter fun e => e.2.owner ≠ some launch }

end State

end Sys2Proof.Machine
end

