-- ==== Sys2Proof/Machine/Engine.lean ====
section
/-! DEFINITION. Engine commands: firing, the checks at fire, delivery chunk by chunk, completion and running faults
(09 R202 to R218, 02 R62, 10 R226, 25 R363). -/

namespace Sys2Proof.Machine

/-! ## The command's fields (R204) -/

namespace Cmd

def dv (c : Cmd) (n : Nat) : Word := c.d.getD n 0
def nv (c : Cmd) (n : Nat) : Word := c.n.getD n 0
def rows (c : Cmd) : Nat := (c.dv 2).toNat / 2 ^ 40
def rowBytes (c : Cmd) : Nat := (c.dv 2).toNat % 2 ^ 40
/-- The format record of d7 (R213). -/
def fm (c : Cmd) : Word := BitVec.ofNat 64 ((c.dv 7).toNat % 2 ^ 17)
def elemTy (c : Cmd) : Option ElemTy := decTy ((c.dv 7).toNat / 2 ^ 28 % 16)
def quantMode (c : Cmd) : RMode :=
  match (c.dv 7).toNat / 2 ^ 26 % 4 with
  | 0 => .rne
  | 1 => .rtz
  | _ => .sr
/-- The element bytes of cpya and cpyx (R212). -/
def elemSize (c : Cmd) : Nat := if c.red = 1 then 8 else 4

end Cmd

/-- The offset bits of an engine address (R204): the virtual address, or the slice offset. -/
def engOffset (a : Word) : Nat := if kindOf a = 1 then a.toNat % 2 ^ 22 else a.toNat % 2 ^ 48

/-- The logical slice or the route of an address of kind 1 or 2. -/
def engUnit (a : Word) : Nat := a.toNat / 2 ^ 52 % 256

/-- Whether the fields of an address that its kind leaves unused are zero (R204). -/
def engShape (a : Word) : Bool :=
  match kindOf a with
  | 0 => a.toNat / 2 ^ 48 % 2 ^ 12 = 0
  | 1 => a.toNat / 2 ^ 22 % 2 ^ 30 = 0
  | _ => a.toNat / 2 ^ 48 % 16 = 0

/-- A space that engine rows lie in (R204), with its bounds. -/
inductive Space where
  | own
  | peer (core : Nat)
  | glob
  | slice (k : Nat)
  | remote
  deriving DecidableEq, Repr

namespace State

/-- The space of an address for the current task, with the offsets [lo, hi) it spans (R204, R208). -/
def space (s : State) (a : Word) : Option (Space × Int × Int) :=
  if !engShape a then none
  else match kindOf a with
    | 0 => match s.place (engOffset a) with
      | .own _ => some (.own, 0, s.t.usable)
      | .peer core _ =>
        let base : Nat := 0x400000 + (engOffset a - 0x400000) / 0x100000 * 0x100000
        some (.peer core, base, base + ((s.taskOn core).elim 0 (·.usable) : Nat))
      | .glob _ => some (.glob, 2 ^ 24, 2 ^ 48)
      | .none => none
    | 1 =>
      if engUnit a < 128 ∧ bitOf (s.ctx s.t.id.ctx).cSlices (engUnit a) then some (.slice (engUnit a), 0, 0x300000)
      else none
    | 2 => some (.remote, 2 ^ 24, 2 ^ 48)
    | _ => none

/-- Whether n rows of `len` bytes from an address with a stride lie in one space (R204). -/
def rowsFit (s : State) (a : Word) (stride : Int) (n len : Nat) : Bool :=
  if n = 0 ∨ len = 0 then true
  else match s.space a with
    | none => false
    | some (_, lo, hi) =>
      let first : Int := (engOffset a : Nat)
      let last : Int := first + (n - 1 : Nat) * stride
      lo ≤ first && first + len ≤ hi && lo ≤ last && last + len ≤ hi

/-- Whether an address lies in the own scratchpad. -/
def inOwn (s : State) (a : Word) : Bool :=
  match s.space a with
  | some (.own, _) => true
  | _ => false

/-! ## Index words (R216) -/

/-- Reads bytes of slices. -/
def sliceKey (k off : Nat) : Nat := k * 0x300000 + off

end State

/-! ## Counted bytes (R206) -/

namespace Cmd

/-- Block rows and chunks of cpyp and cpyu (R213). -/
def elemBytes (c : Cmd) : Nat := (c.elemTy.elim 4 (·.width)) / 8
def kElems (c : Cmd) : Nat := c.rowBytes / c.elemBytes
def blockRows (c : Cmd) : Nat := c.rows / 32
def blockCols (c : Cmd) : Nat := c.kElems / 128
def blockBytes (c : Cmd) : Nat := fmS c.fm * 512 + 64

/-- The index words of an index command, and the chunks of one row (R205, R216). -/
def indexRows (c : Cmd) : Nat := (c.nv 1).toNat % 2 ^ 32
def rowChunks (c : Cmd) : Nat := (c.rowBytes + 255) / 256

/-- The units of delivery of a command: 256-byte chunks, blocks, or one (R205, R215, R216). -/
def unitCount (c : Cmd) : Nat :=
  match c.op with
  | .cpyp | .cpyu => c.blockRows * c.blockCols
  | .ixst | .ixend => c.indexRows * c.rowChunks
  | .sig | .marr => 1
  | _ => c.rows * c.rowChunks

end Cmd

namespace State

/-! ## The engines' ports -/

/-- Raises a core's clock to the port clock that slices and links carry, and the reverse (R249, R263). -/
def meetPort (s : State) (core : Nat) : State :=
  let c := max s.net.clock (s.clockOf core)
  { s.raiseClock core c with net.clock := c }

/-- The error of an engine access whose page is missing or does not permit it: reason 4 of R209, plus 16 when a walk found it
so, which counts (R356). -/
def pageError (s : State) (off : Nat) : Nat :=
  if (s.cached s.t.id.core s.t.id.ctx off).isNone then 4 + 16 else 4

/-- Reads the bytes of one piece within a sector, for the current task's engines, on the path of the command (R247); the error modulo 16 is the reason of R209. The read of
an element update is one with its write (R258): it is of the newest bytes, and orders them for the copy path. -/
def engReadPiece (s : State) (path : Nat) (sp : Space) (off n : Nat) (need : Need) : Except Nat (List Byte × State) :=
  let own (off : Nat) : Except Nat (List Byte × State) :=
    if s.t.lm.bad.contains (off / 32) then .error 5
    else if need = .rw then .ok (readBytes s.t.lm.scratch off n, s.onT fun t => t.pass (fun e => CoreTask.within off n e.addr) (· = 2))
    else .ok ((List.range n).map fun i => s.t.pathByte path (off + i), s)
  match sp with
  | .own => own off
  | .peer core =>
    if core = s.t.id.core then own (off % 0x100000)
    else match s.taskOn core with
    | some p =>
      if p.lm.bad.contains (off % 0x100000 / 32) then .error 5
      else .ok ((List.range n).map fun i => p.scratchByte (off % 0x100000 + i), s.meetClocks s.t.id.core core)
    | none => .error 4
  | .glob =>
    match s.translate s.t.id.core s.t.id.ctx off need with
    | .error _ => .error (s.pageError off)
    | .ok (pa, s) =>
      if s.physBad pa then .error 5
      else
        let r := s.engineLine s.t.id.core (s.keyOf s.t.id.ctx) pa n
        .ok (r.1, r.2.onT (·.noteRead off))
  | .slice k =>
    if s.mem.sliceBad.contains (sliceKey k off / 32) then .error 5
    else .ok (readBytes s.mem.slices (sliceKey k off) n,
      (s.meetPort s.t.id.core).onT (·.noteRead (2 ^ 60 + k * 2 ^ 52 + off)))
  | .remote => .error 6

/-- Reads n bytes from an offset of a space, piece by piece; `map` swizzles each byte's offset. -/
def engRead (s : State) (path : Nat) (sp : Space) (off n : Nat) (need : Need) : Except Nat (List Byte × State) :=
  (sectorPieces (n / 32 + 2) off (List.replicate n (0 : Byte))).foldl (fun r p =>
    match r with
    | .error e => .error e
    | .ok (bs, s) =>
      match s.engReadPiece path sp p.1 p.2.length need with
      | .error e => .error e
      | .ok (b, s) => .ok (bs ++ b, s)) (.ok ([], s))

/-- Writes bytes within a sector at an engine's port, for a command (R205). -/
def engWritePiece (s : State) (c : Cmd) (sp : Space) (off : Nat) (bs : List Byte) : Except Nat State :=
  match sp with
  | .own => .ok (s.onT (·.engineWrite off bs 0 (cmdPath c) c.ord))
  | .peer core =>
    if core = s.t.id.core then .ok (s.onT (·.engineWrite (off % 0x100000) bs 0 (cmdPath c) c.ord))
    else .ok ((s.meetClocks s.t.id.core core).onCore core (·.receiveOther (off % 0x100000) bs))
  | .glob =>
    match s.translate s.t.id.core s.t.id.ctx off .w with
    | .error _ => .error (s.pageError off)
    | .ok (pa, s) => .ok (s.storeLine s.t.id.core (s.keyOf s.t.id.ctx) pa bs)
  | .slice k =>
    .ok { s.meetPort s.t.id.core with
      mem.slices := writeBytes s.mem.slices (sliceKey k off) bs,
      mem.sliceBad := if bs.length = 32 then s.mem.sliceBad.filter (· ≠ sliceKey k off / 32) else s.mem.sliceBad }
  | .remote => .error 6

def engWrite (s : State) (c : Cmd) (sp : Space) (off : Nat) (bs : List Byte) : Except Nat State :=
  (sectorPieces (bs.length / 32 + 2) off bs).foldl (fun r p =>
    match r with
    | .error e => .error e
    | .ok s => s.engWritePiece c sp p.1 p.2) (.ok s)

/-- Swizzled reads and writes of own bytes, 16 bytes at a time (R178, R211). -/
def swzRead (s : State) (path : Nat) (sp : Space) (span : Span) (off n : Nat) (need : Need) : Except Nat (List Byte × State) :=
  match span with
  | none => s.engRead path sp off n need
  | some z =>
    let spots := (List.range n).map fun i => swz (off + i) z.val
    if spots.any fun a => s.t.lm.bad.contains (a / 32) then .error 5 else .ok (spots.map (s.t.pathByte path), s)

def swzWrite (s : State) (c : Cmd) (sp : Space) (span : Span) (off : Nat) (bs : List Byte) : Except Nat State :=
  match span with
  | none => s.engWrite c sp off bs
  | some z => .ok (s.onT fun t =>
      (bs.zipIdx.foldl (fun t b => t.engineWrite (swz (off + b.2) z.val) [b.1] (BitVec.ofNat 4 (8 + z.val)) (cmdPath c) c.ord)
        t).soundSectors ((List.range bs.length).map fun i => swz (off + i) z.val))

/-- Space and offset of a row's byte: the address's space, its offset moved by row and column. -/
def rowSpot (s : State) (a : Word) (stride : Word) (row col : Nat) : Option (Space × Nat) :=
  (s.space a).map fun p => (p.1, ((engOffset a : Nat) + row * stride.toInt + col : Int).toNat)

/-! ## Reductions (R212) -/

end State

/-- One element update of a reduction: the new value and the flags (R212). -/
def reduce (red : Nat) (ftz : Bool) (o x : Nat) : Nat × Flags :=
  let f32 : FloatFmt := ⟨23, 8, 127, false⟩
  let bf16 : FloatFmt := ⟨7, 8, 127, false⟩
  let fadd (f : FloatFmt) (o x : Nat) : Nat × Flags :=
    let r := (f.read ftz o).add (f.read ftz x)
    let v := f.round ftz .rne 0 r.1
    (v.1, r.2 ||| v.2)
  let fpick (smaller : Bool) : Nat × Flags :=
    let a := f32.read ftz o
    let b := f32.read ftz x
    if a.isNaN || b.isNaN then (f32.canonNaN, flagIf (a.isSignalling || b.isSignalling) fInvalid)
    else ((f32.round false .rne 0 (if b.ltTotal a == smaller then b else a)).1, 0)
  match red with
  | 0 => ((o + x) % 2 ^ 32, 0)
  | 1 => ((o + x) % 2 ^ 64, 0)
  | 2 => fadd f32 o x
  | 3 =>
    let lo := fadd bf16 (o % 65536) (x % 65536)
    let hi := fadd bf16 (o / 65536) (x / 65536)
    (lo.1 + 65536 * hi.1, lo.2 ||| hi.2)
  | 4 => (if sx 32 o < sx 32 x then x else o, 0)
  | 5 => (if sx 32 x < sx 32 o then x else o, 0)
  | 6 => fpick false
  | 7 => fpick true
  | 8 => (o ||| x, 0)
  | 9 => (o &&& x, 0)
  | 10 => (o ^^^ x, 0)
  | _ => (x, 0)

/-- Splits bytes into elements. -/
def elemsOf (size : Nat) : Nat → List Byte → List Nat
  | 0, _ => []
  | fuel + 1, bs => if bs.length < size then [] else leNat (bs.take size) :: elemsOf size fuel (bs.drop size)

/-! ## Quantisation (R62, R213) -/

/-- n turns of an LFSR. -/
def turnN : Nat → BitVec 32 → BitVec 32
  | 0, s => s
  | n + 1, s => turnN n (lfsrStep s)

/-- An element as an exact value. -/
def elemVal (ty : ElemTy) (ftz : Bool) (x : Nat) : FVal :=
  match ty.float? with
  | some f => f.read ftz x
  | none => .fin (ty.int x < 0) (ty.int x).natAbs 0

/-- rne of a magnitude m · 2^k. -/
def rneScaled (m : Nat) (k : Int) : Nat := if 0 ≤ k then m * 2 ^ k.toNat else rneShift m (-k).toNat

/-- The larger of two magnitudes m · 2^e. -/
def maxMag (a b : Nat × Int) : Nat × Int :=
  let e := min a.2 b.2
  if a.1 * 2 ^ (a.2 - e).toNat < b.1 * 2 ^ (b.2 - e).toNat then b else a

/-- The scale of a chunk (R62 steps 1 to 3). -/
def chunkScale (sign S : Nat) (l : List FVal) : Int :=
  let m := l.foldl (fun m v => match v with | .fin _ k e => maxMag m (k, e) | _ => m) (0, 0)
  let qmax : Nat := if sign = 0 then 2 ^ S - 1 else 2 ^ (S - 1) - 1
  if m.1 = 0 then -128
  else
    match (List.range 256).find? fun (k : Nat) => rneScaled m.1 (m.2 - ((k : Int) - 128)) ≤ qmax with
    | some k => (k : Int) - 128
    | none => 127

/-- One quantised element (R62 steps 4 and 5). -/
def quantise (sign S : Nat) (mode : RMode) (st : BitVec 32) (e : Int) (v : FVal) : Int × Flags :=
  let lo : Int := if sign = 0 then 0 else if sign = 1 then -(2 ^ (S - 1)) else -(2 ^ (S - 1) - 1)
  let hi : Int := if sign = 0 then 2 ^ S - 1 else 2 ^ (S - 1) - 1
  match v with
  | .nan _ => (0, fInvalid)
  | .inf neg => (if neg then lo else hi, fInvalid)
  | .fin neg m x =>
    let r := roundInt mode st neg m (x - e)
    let q := satInt r.1 lo hi
    (q, flagIf r.2 fInexact ||| flagIf (q != r.1) fSaturated)

/-- The bytes of a plane block from 32 rows of 128 quantised elements and 32 scales (R54, R59). -/
def blockBytesOf (S : Nat) (q : List (List Int)) (scales : List Int) : List Byte :=
  ((List.range S).flatMap fun j => q.flatMap fun row =>
    (List.range 16).map fun b => BitVec.ofNat 8 (packNat 1 ((List.range 8).map fun k =>
      lowBits 16 (row.getD (8 * b + k) 0) / 2 ^ (S - 1 - j) % 2)))
  ++ scales.map (fun e => BitVec.ofNat 8 (lowBits 8 e)) ++ List.replicate 32 0

namespace State

/-- Delivers block u of a cpyp: the flags, the LFSR after a completed block row, and the state; the error is the reason
of R209. Within a block row the command keeps the LFSR as it stood at the row's start, which a residual then saves (DESIGN CHOICE;
notes/assumptions 46). -/
def packBlock (s : State) (c : Cmd) (u : Nat) : Except Nat (Flags × BitVec 32 × State) :=
  match c.elemTy with
  | none => .error 7
  | some ty =>
    let b := u / c.blockCols
    let kc := u % c.blockCols
    let S := fmS c.fm
    let sign := fmSign c.fm
    let rows := (List.range 32).foldl (fun (r : Except Nat (List (List FVal) × State)) i =>
      match r with
      | .error e => .error e
      | .ok (l, s) =>
        match s.rowSpot (c.dv 0) (c.dv 3) (32 * b + i) (kc * 128 * c.elemBytes) with
        | none => .error 4
        | some (sp, off) =>
          match s.engRead (cmdPath c) sp off (128 * c.elemBytes) .r with
          | .error e => .error e
          | .ok (bs, s) => .ok (l ++ [(elemsOf c.elemBytes 128 bs).map (elemVal ty c.ftz)], s)) (.ok ([], s))
    match rows with
    | .error e => .error e
    | .ok (rows, s) =>
      let q := rows.zipIdx.map fun r =>
        let e := if fmScales c.fm then chunkScale sign S r.1 else 0
        let st := turnN (r.2 * c.kElems + kc * 128) c.lfsr
        let l := (r.1.foldl (fun (p : List (Int × Flags) × BitVec 32) v =>
          (quantise sign S c.quantMode p.2 e v :: p.1, lfsrStep p.2)) ([], st)).1.reverse
        (e, l)
      let bytes := blockBytesOf S (q.map fun r => r.2.map (·.1))
        (if fmScales c.fm then q.map (·.1) else List.replicate 32 0)
      let fl := q.foldl (fun f r => r.2.foldl (fun f x => f ||| x.2) f) 0
      let p := (engOffset (c.dv 1) : Int) + b * (c.dv 4).toInt + (kc * ((S + 1) * 512) : Nat)
      match s.swzWrite c .own c.ds p.toNat bytes with
      | .error e => .error e
      | .ok s => .ok (fl, if kc + 1 = c.blockCols then turnN (32 * c.kElems) c.lfsr else c.lfsr, s)

/-- The value of one element of a block as cpyu converts it (R56, R213). R49 names no row for a scaled nested integer: it is rounded
in the mode and saturated, with saturated and inexact and never invalid (DESIGN CHOICE; notes/assumptions 46). -/
def unpackElem (ty : ElemTy) (ftz : Bool) (mode : RMode) (st : BitVec 32) (sign S : Nat) (bits : List Bool)
    (scale : Int) : Nat × Flags :=
  if niReserved sign bits then
    match ty.float? with
    | some f => (f.canonNaN, fReserved)
    | none => (0, fReserved)
  else accConvert ty ftz mode st (BitVec.ofInt 64 (niValue sign S bits)) scale

/-- The bytes that block u of a cpyu reads, by their places in the block: its planes, then its scales where it has any; none where
a sector of them is uncorrectable (R213). -/
def unpackSource (s : State) (c : Cmd) (u : Nat) : Except Nat (List (Nat × Byte)) :=
  let off := u / c.blockCols * (c.dv 3).toInt + (u % c.blockCols * ((fmS c.fm + 1) * 512) : Nat)
  let base := ((engOffset (c.dv 0) : Int) + off).toNat
  let source := (List.range (fmW c.fm * 512)) ++ if fmScales c.fm then (List.range 32).map (fmS c.fm * 512 + ·) else []
  if source.any fun a => s.t.lm.bad.contains (fmAddr c.fm (base + a) / 32) then .error 5
  else .ok (source.map fun a => (a, s.t.pathByte (cmdPath c) (fmAddr c.fm (base + a))))

/-- Delivers block u of a cpyu. Blocks run in block order and the turns of a stochastic conversion in the row-major order of the
elements, so each element's turn counts from the state of its block row's start, which the command keeps until the row's last block
and which is the state that a residual saves (DESIGN CHOICE: R217 does not say; notes/assumptions 46). -/
def unpackBlock (s : State) (c : Cmd) (u : Nat) : Except Nat (Flags × BitVec 32 × State) :=
  match c.elemTy, s.unpackSource c u with
  | none, _ => .error 7
  | _, .error e => .error e
  | some ty, .ok src =>
    let b := u / c.blockCols
    let kc := u % c.blockCols
    let S := fmS c.fm
    let byte (a : Nat) : Nat := ((src.find? fun p => p.1 = a).map (·.2.toNat)).getD 0
    (List.range 32).foldl (fun (r : Except Nat (Flags × BitVec 32 × State)) i =>
      match r with
      | .error e => .error e
      | .ok (fl, lf, s) =>
        let scale : Int := if fmScales c.fm then sx 8 (byte (S * 512 + i)) else 0
        let st := turnN (i * c.kElems + kc * 128) c.lfsr
        let l := (List.range 128).foldl (fun (p : List (Nat × Flags) × BitVec 32) k =>
          let bits := (List.range (fmW c.fm)).map fun j => byte (j * 512 + 16 * i + k / 8) / 2 ^ (k % 8) % 2 == 1
          (unpackElem ty c.ftz c.quantMode p.2 (fmSign c.fm) S bits scale :: p.1, lfsrStep p.2)) ([], st)
        let vals := l.1.reverse
        match s.rowSpot (c.dv 1) (c.dv 4) (32 * b + i) (kc * 128 * c.elemBytes) with
        | none => .error 4
        | some (sp, off) =>
          match s.engWrite c sp off (vals.flatMap fun v => leBytes c.elemBytes v.1) with
          | .error e => .error e
          | .ok s => .ok (vals.foldl (fun f v => f ||| v.2) fl, lf, s))
      (.ok (0, if kc + 1 = c.blockCols then turnN (32 * c.kElems) c.lfsr else c.lfsr, s))

/-! ## Delivery (R205, R211 to R216) -/

/-- Changes the current task or, for a published command, every replica of it, a saved one too (R370). -/
def onSet (s : State) (c : Cmd) (f : CoreTask → CoreTask) : State :=
  if c.pub then s.onWhole (replicas s.t) f else s.onT f

/-- A delivery of a command to the current task, or to every replica of it. -/
def toSet (s : State) (c : Cmd) (d : Drop) : State := s.onSet c (·.receive d)

/-- What the offset of an address in the own scratchpad counts from: 0, or the base of the task's own peer window. -/
def ownBase (s : State) (a : Word) : Option Nat :=
  match s.space a with
  | some (.own, _) => some 0
  | some (.peer core, lo, _) => if core = s.t.id.core then some lo.toNat else none
  | _ => none

/-- Row, column and length of chunk u (R205). -/
def chunkOf (c : Cmd) (u : Nat) : Nat × Nat × Nat :=
  let per := c.rowChunks
  (u / per, u % per * 256, min 256 (c.rowBytes - u % per * 256))

/-- What a delivery leaves: destination bytes, other counted bytes, flags, the LFSR, the state, and the index word of an index
command's row. -/
structure Delivered where
  dest : Nat
  extra : Nat
  flags : Flags
  lfsr : BitVec 32
  s : State
  index : Option Nat := none

/-- One atomic update of a chunk's elements at the destination port; the old values go into the return buffer, as one write
(R195, R212). -/
def reduceChunk (s : State) (c : Cmd) (u : Nat) (x : List Byte) : Except Nat Delivered :=
  let (row, col, _) := chunkOf c u
  let size := c.elemSize
  let r := (elemsOf size 64 x).zipIdx.foldl (fun (r : Except Nat (Delivered × List Byte)) e =>
    match r with
    | .error k => .error k
    | .ok (d, olds) =>
      match d.s.rowSpot (c.dv 1) (c.dv 4) row (col + e.2 * size) with
      | none => .error 4
      | some (sp, off) =>
        match d.s.engRead (cmdPath c) sp off size .rw with
        | .error k => .error k
        | .ok (old, s) =>
          let v := reduce c.red c.ftz (leNat old) e.1
          match s.engWrite c sp off (leBytes size v.1) with
          | .error k => .error k
          | .ok s => .ok ({ d with dest := d.dest + size, flags := d.flags ||| v.2, s := s }, olds ++ old))
    (.ok ({ dest := 0, extra := 0, flags := 0, lfsr := c.lfsr, s }, []))
  r.map fun d =>
    if c.ret then
      { d.1 with extra := d.1.dest,
                 s := d.1.s.toSet c (.bytes (engOffset (c.dv 7) + row * (c.rowBytes / size) * size + col) d.2 (cmdPath c) c.ord) }
    else d.1

/-- The index word j of an index command, with the state after reading it (R216). -/
def indexWord (s : State) (c : Cmd) (j : Nat) : Except Nat (Nat × State) :=
  match s.rowSpot (c.nv 0) 4 j 0 with
  | none => .error 4
  | some (sp, off) =>
    match s.engRead (cmdPath c) sp off 4 .r with
    | .error e => .error e
    | .ok (bs, s) => .ok (leNat bs, s)

/-- One chunk of an index command's row: gathered, scattered, zeroed or skipped (R205, R216). The row's index word is read
with its first chunk. -/
def indexChunk (s : State) (c : Cmd) (u : Nat) : Except Nat Delivered :=
  let (j, col, n) := chunkOf c u
  match (match c.index with
    | some x => if col = 0 then s.indexWord c j else .ok (x, s)
    | none => s.indexWord c j) with
  | .error e => .error e
  | .ok (x, s) =>
    let hole := x = 0xFFFFFFFF
    if !hole && (c.nv 2).toNat % 2 ^ 32 ≤ x then .error 8
    else
      let (sr, dr) := if c.op = .ixst then (x, j) else (j, x)
      if hole && c.op != .ixst then .ok { dest := 0, extra := 0, flags := 0, lfsr := c.lfsr, s, index := some x }
      else
        let src : Except Nat (List Byte × State) :=
          if hole then .ok (List.replicate n 0, s)
          else match s.rowSpot (c.dv 0) (c.dv 3) sr col with
            | none => .error 4
            | some (sp, off) => s.engRead (cmdPath c) sp off n .r
        match src, s.rowSpot (c.dv 1) (c.dv 4) dr col with
        | .ok (bs, s), some (sp, off) =>
          match s.engWrite c sp off bs with
          | .ok s => .ok { dest := n, extra := 0, flags := 0, lfsr := c.lfsr, s, index := some x }
          | .error e => .error e
        | .error e, _ => .error e
        | _, none => .error 4

/-- The source bytes of chunk u (R205). -/
def sourceChunk (s : State) (c : Cmd) (u : Nat) : Except Nat (List Byte × State) :=
  let (row, col, len) := chunkOf c u
  match s.rowSpot (c.dv 0) (c.dv 3) row col with
  | none => .error 4
  | some (sp, off) => s.swzRead (cmdPath c) sp c.ss off len .r

/-- Delivers unit u of a command of the copy or index engine of the current task. -/
def deliver (s : State) (c : Cmd) (u : Nat) : Except Nat Delivered :=
  match c.op with
  | .cpy =>
    let (row, col, len) := chunkOf c u
    match s.sourceChunk c u with
    | .error e => .error e
    | .ok (bs, s) =>
      match s.rowSpot (c.dv 1) (c.dv 4) row col with
      | none => .error 4
      | some (sp, off) =>
        match s.swzWrite c sp c.ds off bs with
        | .error e => .error e
        | .ok s => .ok { dest := len, extra := 0, flags := 0, lfsr := c.lfsr, s }
  | .cpya =>
    match s.sourceChunk c u with
    | .error e => .error e
    | .ok (bs, s) => s.reduceChunk c u bs
  | .cpyp =>
    match s.packBlock c u with
    | .error e => .error e
    | .ok (f, l, s) => .ok { dest := c.blockBytes, extra := 0, flags := f, lfsr := l, s }
  | .cpyu =>
    match s.unpackBlock c u with
    | .error e => .error e
    | .ok (f, l, s) => .ok { dest := 4096 * c.elemBytes, extra := 0, flags := f, lfsr := l, s }
  | .sig =>
    match s.space (c.dv 1) with
    | some (sp, _) =>
      match s.engWrite c sp (engOffset (c.dv 1)) (leBytes 4 (c.dv 6).toNat) with
      | .error e => .error e
      | .ok s => .ok { dest := 4, extra := 0, flags := 0, lfsr := c.lfsr, s }
    | none => .error 4
  | .ixst | .ixend => s.indexChunk c u
  | _ => .error 6

/-! ## The command queue (R203, R207, R209) -/

/-- Whether what an xfence of engine paths names is performed: held commands too (R199; notes/assumptions 8). -/
def fenceMet (t : CoreTask) (f : BitVec 5 × BitVec 5 × Nat) : Bool :=
  t.performed f.1 f.2.2 && t.eng.cmds.all fun c => !c.held || f.2.2 ≤ c.ord || !bitOf f.1 (cmdPath c)

/-- Whether a fence holds a command back (R199). -/
def fenced (t : CoreTask) (c : Cmd) : Bool :=
  t.eng.fences.any fun f => bitOf f.2.1 (cmdPath c) && f.2.2 ≤ c.ord && !fenceMet t f

/-- Whether the engines have stopped for a fault (R209). -/
def engineStopped (t : CoreTask) : Bool := t.eng.cmds.any (·.faulted)

/-- Whether the copy engine has started a command, or need not: a marr arrives on its own, and the index engine and the held
set have orders of their own (R203, R215, R363). -/
def outOfLine (x : Cmd) : Bool := x.running || x.held || x.op = .marr || cmdPath x = 3

/-- Whether a command may start: copies in queue order and four at once, one index command, a sig after every earlier command,
no fence in the way (R199, R203, R215). -/
def mayStart (t : CoreTask) (c : Cmd) : Bool :=
  !c.held && !c.running && !engineStopped t && !fenced t c &&
  (match c.op with
    | .ixst | .ixend => (t.eng.cmds.filter fun x => x.running && cmdPath x = 3).isEmpty
    | .marr => false
    | _ => (t.eng.cmds.filter fun x => x.running && cmdPath x != 3).length < 4 &&
        t.eng.cmds.all fun x => c.ord ≤ x.ord || outOfLine x) &&
  (!c.pub || t.eng.cmds.all fun x => c.ord ≤ x.ord || !x.pub) &&
  (c.op != .sig || ((t.eng.cmds.all fun x => c.ord ≤ x.ord) && t.eng.away.all fun a => c.ord ≤ a.ord))

end State

namespace CoreTask

/-- Starts the queued commands that may start, in queue order, and forgets fences that are met (COMMAND_START, R203). -/
def startCmds (t : CoreTask) : CoreTask :=
  let t := (t.eng.fences.filter (State.fenceMet t)).foldl (fun t f => t.inOrder (f.1 &&& 0x1E) f.2.1 f.2.2)
    { t with eng.fences := t.eng.fences.filter fun f => !State.fenceMet t f }
  t.eng.cmds.foldl (fun t c =>
    if State.mayStart t c then
      { t with eng.cmds := t.eng.cmds.map fun (x : Cmd) => if x.ord = c.ord then { x with running := true } else x }
    else t) t

/-- Replaces a command by its order. -/
def setCmd (t : CoreTask) (c : Cmd) : CoreTask :=
  { t with eng.cmds := t.eng.cmds.map fun x => if x.ord = c.ord then c else x }

/-- Removes a command by its order. -/
def dropCmd (t : CoreTask) (ord : Nat) : CoreTask := { t with eng.cmds := t.eng.cmds.filter fun x => x.ord ≠ ord }

/-- A running fault (R209): every command stops at a chunk boundary and the task stops before its next group with
0x08. -/
def engineFault (t : CoreTask) (c : Cmd) (reason : Nat) : CoreTask :=
  let t := t.setCmd { c with faulted := true, reason }
  let val := c.tag.toNat * 2 ^ 48 + reason * 2 ^ 44 + c.bytes % 2 ^ 40
  { t with eng.cmds := t.eng.cmds.map fun (x : Cmd) => { x with running := false },
           ctl.due := t.ctl.due ++ [{ cause := 0x08, sub := 0, cls := 0, val := BitVec.ofNat 64 val, reason }] }

end CoreTask

namespace State

/-- A running fault of a command; one published for a replica set stops every replica (R209, R366). `error` modulo 16 is the
reason. -/
def faultCmd (s : State) (c : Cmd) (error : Nat) : State :=
  let s := s.count s.t.id.ctx 14 (error / 16)
  let s' := s.onT fun t => t.engineFault c (error % 16)
  if c.pub then
    s'.onTasks (fun t => replicas s.t t && t.id.core != s.t.id.core) fun t =>
      { t with ctl.due := t.ctl.due ++ s'.t.ctl.due.drop s.t.ctl.due.length }
  else s'

/-- The lines that a command writes (R376, R377). -/
def cmdLines (s : State) (c : Cmd) : List Nat :=
  let base := if kindOf (c.dv 1) = 1 then 2 ^ 60 + engUnit (c.dv 1) * 2 ^ 52 else 0
  let span (row col n : Nat) : List Nat :=
    match s.rowSpot (c.dv 1) (c.dv 4) row col with
    | none => []
    | some (_, off) => (List.range ((off % 128 + n + 127) / 128)).map fun k => (base + off) / 128 + k
  if kindOf (c.dv 1) = 2 then []
  else match c.op with
    | .sig => span 0 0 4
    | .ixend => (List.range c.indexRows).flatMap fun j => match s.indexWord c j with
      | .ok (x, _) => if x = 0xFFFFFFFF then [] else span x 0 c.rowBytes
      | .error _ => []
    | .ixst => (List.range c.indexRows).flatMap fun j => span j 0 c.rowBytes
    | _ => (List.range c.rows).flatMap fun r => span r 0 c.rowBytes

/-- The tasks of an ordered launch that are younger than the current one and have read one of some lines (R377). -/
def readYounger (s : State) (lines : List Nat) (t : CoreTask) : Bool :=
  t.id.launch = s.t.id.launch && t.id.idx < t.id.cnt && !t.held.committed &&
    (match s.exe.launches.find? fun l => l.id = s.t.id.launch with
      | some l => l.rank s.t.id.idx < l.rank t.id.idx
      | none => false) &&
    lines.any (hits t.held.readSig)

/-- What the end of a published command means to the other tasks: every replica comes level with the core that executed it, and
goes on without waiting for it (R247, R248, R370). -/
def endPublished (s : State) (c : Cmd) : State :=
  if c.pub then
    let clock := s.t.lm.clock
    s.onWhole (replicas s.t) fun t =>
      { t with lm.clock := max t.lm.clock clock, eng.away := t.eng.away.filter (·.ord ≠ c.ord) }.startCmds
  else s

/-- The completion of a command whose bytes are all delivered: the completion word, then the flags, then the entry
frees (R207, R210). The word of a published command goes to every replica: to its own scratchpad, or to that of its peer, whose clocks
come level (R261, R370). -/
def completeCmd (s : State) (c : Cmd) : State :=
  let word := leBytes 4 (c.dv 6).toNat
  let fin (s : State) : State := ((s.toSet c (.flags c.flags)).endPublished c).onT fun t => (t.dropCmd c.ord).startCmds
  if c.cw then
    match s.ownBase (c.dv 5) with
    | some lo => fin (s.toSet c (.word (engOffset (c.dv 5) - lo) word (cmdPath c) c.ord))
    | none => match s.space (c.dv 5) with
      | some (.peer core, lo, _) =>
        let off := engOffset (c.dv 5) - lo.toNat
        let s := s.meetClocks s.t.id.core core
        match s.taskOn core with
        | some p =>
          fin (if c.pub then s.onWhole (replicas p) fun t => ({ t with lm.clock := max t.lm.clock p.lm.clock }.receive (.other off word))
            else s.onCore core (·.receiveOther off word))
        | none => fin s
      | some (sp, _) =>
        match s.engWrite c sp (engOffset (c.dv 5)) word with
        | .ok s => fin s
        | .error e => s.faultCmd c e
      | none => s.faultCmd c 4
  else fin s

/-- Whether every unit of a command is delivered, or acknowledged on the link path. -/
def unitsDone (c : Cmd) : Bool := if cmdPath c = 4 then c.acked = c.total else c.units = c.total

/-- Whether a queued command has nothing to deliver and nothing holds it (R206). -/
def idle (t : CoreTask) (c : Cmd) : Bool := c.total = 0 && !c.held && !fenced t c && !engineStopped t

/-- After a delivery: the word of a sig in the own scratchpad tells of every command before the sig (R248). -/
def delivered (s : State) (c : Cmd) : State :=
  match if c.op = .sig then s.ownBase (c.dv 1) else none with
  | some lo => s.onT fun t =>
      let a := engOffset (c.dv 1) - lo
      let gone := t.pass (fun e => CoreTask.within a 4 e.addr) fun _ => true
      gone.tells a true fun e => 2 ≤ e.path && e.ord < c.ord
  | none => s

/-- Delivers the next unit of a running command of the current task (R205, R206, R320). -/
def deliverNext (s : State) (c : Cmd) : State :=
  match s.deliver c c.units with
  | .error e => s.faultCmd c e
  | .ok d =>
    let d := { d with s := delivered d.s c }
    let c' := { c with units := c.units + 1, bytes := c.bytes + d.dest, flags := c.flags ||| d.flags, lfsr := d.lfsr,
                       index := d.index }
    let s := (d.s.onT (·.setCmd c')).toSet c (.count c.ctr (d.dest + d.extra))
    let s := if cmdPath c = 3 then s else s.countMile s.t.id.ctx c.tag d.dest
    let s := if c.op != .sig && cmdPath c = 2 then s.count s.t.id.ctx 10 d.dest else s
    if unitsDone c' && !c.cw then s.completeCmd c' else s

/-! ## Checks at fire (R208) -/

/-- An engine-fault trap at fire (R208, R209): class EN, offset 0. -/
def fireFault (tag : BitVec 16) (reason : Nat) : Trap :=
  { cause := 0x08, sub := 0, cls := 4, val := BitVec.ofNat 64 (tag.toNat * 2 ^ 48 + reason * 2 ^ 44), reason }

/-- Whether an address's kind is allowed. -/
def kindIn (a : Word) (l : List Nat) : Bool := l.contains (kindOf a)

/-- The allowed kinds of source and destination (R211 to R216). -/
def kindsOk (c : Cmd) : Bool :=
  (match c.op with
    | .cpy | .cpya => kindIn (c.dv 0) [0, 1] && kindIn (c.dv 1) [0, 1]
    | .cpyp => kindIn (c.dv 0) [0, 1] && kindIn (c.dv 1) [0]
    | .cpyu => kindIn (c.dv 0) [0] && kindIn (c.dv 1) [0, 1]
    | .cpyl | .cpyx => kindIn (c.dv 0) [0, 1] && kindIn (c.dv 1) [2]
    | .sig => kindIn (c.dv 1) [0, 2]
    | .ixst | .ixend => kindIn (c.dv 0) [0, 1] && kindIn (c.dv 1) [0, 1] && kindIn (c.nv 0) [0, 1]
    | .marr => true) &&
  (!(c.op = .cpya && c.ret) || kindOf (c.dv 7) = 0) &&
  (!c.cw || kindOf (c.dv 5) = 0)

/-- Whether an address and a stride are multiples of a granule. -/
def granule (n : Nat) (a stride : Word) : Bool := a.toNat % n = 0 && stride.toNat % n = 0

/-- The alignment rules (R208 reason 2, R211 to R216). An index command's addresses, strides and row bytes have the granule of 4 that
R216 gives its index words (DESIGN CHOICE; notes/assumptions 46). -/
def alignOk (c : Cmd) : Bool :=
  let sw (sp : Span) (n : Nat) : Nat := if sp.isSome then 16 else n
  let e := c.elemSize
  (match c.op with
    | .cpy | .cpyl =>
      granule (sw c.ss 4) (c.dv 0) (c.dv 3) && granule (sw c.ds 4) (c.dv 1) (c.dv 4) &&
        c.rowBytes % (if c.ss.isSome || c.ds.isSome then 16 else 4) = 0
    | .cpya | .cpyx =>
      granule (sw c.ss e) (c.dv 0) (c.dv 3) && granule e (c.dv 1) (c.dv 4) && c.rowBytes % sw c.ss e = 0 &&
        (!c.ret || (c.dv 7).toNat % e = 0)
    | .cpyp => granule 4 (c.dv 0) (c.dv 3) && granule 512 (c.dv 1) (c.dv 4) && c.rowBytes % 4 = 0
    | .cpyu => granule 512 (c.dv 0) (c.dv 3) && granule 4 (c.dv 1) (c.dv 4) && c.rowBytes % 4 = 0
    | .sig => (c.dv 1).toNat % 4 = 0
    | .ixst | .ixend =>
      granule 4 (c.dv 0) (c.dv 3) && granule 4 (c.dv 1) (c.dv 4) && c.rowBytes % 4 = 0 && (c.nv 0).toNat % 4 = 0
    | .marr => true) &&
  (!c.cw || (c.dv 5).toNat % 4 = 0)

/-- The last byte of the plane side of cpyp and cpyu: rows of blocks (R213). -/
def planeFit (s : State) (c : Cmd) (base stride : Word) : Bool :=
  s.rowsFit base stride.toInt c.blockRows (if c.blockCols = 0 then 0 else (c.blockCols - 1) * ((fmS c.fm + 1) * 512) + c.blockBytes)

/-- The range rules (R208 reason 3). The indexed side of an index command is judged over all its n2 rows, whichever the index words
name (DESIGN CHOICE; notes/assumptions 46). -/
def rangeOk (s : State) (c : Cmd) : Bool :=
  (match c.op with
    | .cpy | .cpya | .cpyl | .cpyx =>
      s.rowsFit (c.dv 0) (c.dv 3).toInt c.rows c.rowBytes && s.rowsFit (c.dv 1) (c.dv 4).toInt c.rows c.rowBytes
    | .cpyp => s.rowsFit (c.dv 0) (c.dv 3).toInt c.rows c.rowBytes && s.planeFit c (c.dv 1) (c.dv 4)
    | .cpyu => s.planeFit c (c.dv 0) (c.dv 3) && s.rowsFit (c.dv 1) (c.dv 4).toInt c.rows c.rowBytes
    | .sig => s.rowsFit (c.dv 1) 0 1 4
    | .ixst =>
      s.rowsFit (c.dv 0) (c.dv 3).toInt ((c.nv 2).toNat % 2 ^ 32) c.rowBytes &&
        s.rowsFit (c.dv 1) (c.dv 4).toInt c.indexRows c.rowBytes && s.rowsFit (c.nv 0) 4 c.indexRows 4
    | .ixend =>
      s.rowsFit (c.dv 0) (c.dv 3).toInt c.indexRows c.rowBytes &&
        s.rowsFit (c.dv 1) (c.dv 4).toInt ((c.nv 2).toNat % 2 ^ 32) c.rowBytes && s.rowsFit (c.nv 0) 4 c.indexRows 4
    | .marr => true) &&
  (!c.cw || c.op = .marr || s.rowsFit (c.dv 5) 0 1 4)

/-- The parameter rules (R208 reason 7), among them that a return buffer lies whole in the own scratchpad (reason 7 and not 3: DESIGN
CHOICE; notes/assumptions 46). -/
def paramsOk (s : State) (c : Cmd) : Bool :=
  let d7 := (c.dv 7).toNat
  let planes (blocks : Word) (span : Span) : Bool :=
    c.elemTy.isSome && d7 / 2 ^ 26 % 4 ≠ 3 && d7 / 2 ^ 17 % 2 ^ 9 = 0 && c.rows % 32 = 0 &&
      c.rowBytes % c.elemBytes = 0 && c.kElems % 128 = 0 && s.inOwn blocks &&
      (span.isSome == fmSwz c.fm) && (span.elim 0 (·.val)) = fmSpan c.fm
  match c.op with
  | .cpy => (c.ss.isNone || s.inOwn (c.dv 0)) && (c.ds.isNone || s.inOwn (c.dv 1))
  | .cpya => (c.ss.isNone || s.inOwn (c.dv 0)) &&
      (!c.ret || (s.inOwn (c.dv 7) && s.rowsFit (c.dv 7) 0 1 (c.rows * c.rowBytes)))
  | .cpyl | .cpyx => c.ss.isNone || s.inOwn (c.dv 0)
  | .cpyp => planes (c.dv 1) c.ds
  | .cpyu => planes (c.dv 0) c.ss
  | .ixst | .ixend => c.rows = 0 && c.nv 3 = 0
  | .marr => c.cw && s.inOwn (c.dv 5) && s.rowsFit (c.dv 5) 0 1 4 && !s.t.id.ordered && d7 % 2 ^ 32 < 2 ^ 31 &&
      d7 / 2 ^ 32 < 2 ^ 24
  | .sig => true

/-- The own-scratchpad extents that a command's bytes touch, by its own addresses or through the task's own peer window: rows of the
source, the destination, the return buffer, the index words and the completion word (R226). Of an index command every row of the
indexed side counts, whether an index names it or not, and of a swizzled operand the addresses before the swizzle (DESIGN CHOICE:
R226 does not say which bytes are taken to be touched at fire; notes/assumptions 46). -/
def ownExtents (s : State) (c : Cmd) : List (Nat × Nat) :=
  let rowsOf (a stride : Word) (n len : Nat) : List (Nat × Nat) :=
    match s.ownBase a with
    | some lo => (List.range n).map fun (i : Nat) => (((engOffset a : Int) - (lo : Int) + (i : Int) * stride.toInt).toNat, len)
    | none => []
  (match c.op with
    | .cpyp => rowsOf (c.dv 0) (c.dv 3) c.rows c.rowBytes ++
        rowsOf (c.dv 1) (c.dv 4) c.blockRows (c.blockCols * ((fmS c.fm + 1) * 512))
    | .cpyu => rowsOf (c.dv 1) (c.dv 4) c.rows c.rowBytes ++
        rowsOf (c.dv 0) (c.dv 3) c.blockRows (c.blockCols * ((fmS c.fm + 1) * 512))
    | .ixst => rowsOf (c.dv 0) (c.dv 3) ((c.nv 2).toNat % 2 ^ 32) c.rowBytes ++
        rowsOf (c.dv 1) (c.dv 4) c.indexRows c.rowBytes ++ rowsOf (c.nv 0) 4 c.indexRows 4
    | .ixend => rowsOf (c.dv 1) (c.dv 4) ((c.nv 2).toNat % 2 ^ 32) c.rowBytes ++
        rowsOf (c.dv 0) (c.dv 3) c.indexRows c.rowBytes ++ rowsOf (c.nv 0) 4 c.indexRows 4
    | .sig => rowsOf (c.dv 1) 0 1 4
    | .marr => []
    | _ => rowsOf (c.dv 0) (c.dv 3) c.rows c.rowBytes ++ rowsOf (c.dv 1) (c.dv 4) c.rows c.rowBytes) ++
  (if c.op = .cpya && c.ret then [(engOffset (c.dv 7), c.rows * c.rowBytes)] else []) ++
  (if c.cw then rowsOf (c.dv 5) 0 1 4 else [])

/-- The rows an ixend writes, its holes left out; a word that cannot be read counts none (R206, R216). -/
def scatterRows (s : State) (c : Cmd) : Nat :=
  ((List.range c.indexRows).filter fun j =>
    match s.indexWord c j with
    | .ok (x, _) => x ≠ 0xFFFFFFFF
    | .error _ => false).length

/-- The counted bytes of a command (R206). -/
def counted (s : State) (c : Cmd) : Nat :=
  match c.op with
  | .cpy | .cpyl | .cpyx => c.rows * c.rowBytes
  | .cpya => c.rows * c.rowBytes * (if c.ret then 2 else 1)
  | .cpyp => c.blockRows * c.blockCols * c.blockBytes
  | .cpyu => c.rows * c.rowBytes
  | .ixst => c.indexRows * c.rowBytes
  | .ixend => s.scatterRows c * c.rowBytes
  | .sig | .marr => 4

/-- Whether a command completes at once: no row, no row bytes, or only holes to scatter (R206). -/
def nothingToDo (s : State) (c : Cmd) : Bool :=
  c.total = 0 || ((c.op = .ixst || c.op = .ixend) && c.rowBytes = 0) ||
    (c.op = .ixend && (List.range c.indexRows).all fun j =>
      match s.indexWord c j with
      | .ok (x, _) => x = 0xFFFFFFFF
      | .error _ => false)

/-- The first fire-time condition that holds, in the order of R208. -/
def fireTrap (s : State) (c : Cmd) : Option Trap :=
  if (c.op = .cpyp ∨ c.op = .cpyu) ∧ fmBad c.fm then
    some { cause := 0x07, sub := 0, cls := 4, val := c.fm, reason := 0 }
  else if !kindsOk c then some (fireFault c.tag 1)
  else if !alignOk c then some (fireFault c.tag 2)
  else if !s.rangeOk c then some (fireFault c.tag 3)
  else if !s.paramsOk c then some (fireFault c.tag 7)
  else
    match if s.t.eng.natives.isEmpty then none
      else (s.ownExtents c).findSome? fun p => s.t.rangeFault p.1 p.2 with
    | some r => some { cause := 0x0C, sub := 0, cls := 4, val := BitVec.ofNat 64 r, reason := 0 }
    | none =>
      let n := s.counted c
      if 2 ^ 31 ≤ n ∨ 2 ^ 32 ≤ s.t.ctr c.ctr + n then
        some { cause := 0x09, sub := 0, cls := 4, val := BitVec.ofNat 64 n, reason := 0 }
      else none

/-- Whether a command's destination is global, a slice or remote (R363). -/
def farDest (s : State) (c : Cmd) : Bool :=
  match c.op with
  | .marr => false
  | _ => match s.space (c.dv 1) with
    | some (.own, _) | some (.peer _, _) => false
    | _ => true

/-- Fires a command (R203, R206): held back while the queue or the index engine is full, a seventh marr is outstanding,
or the held set has no room, which after a mismatch at its implicit release is reported (R369); else checked and queued. A command
with nothing to do, which no fence holds, has no unit: it completes in its issue cycle, as the engines' deliveries of that cycle do
(R251). -/
def fire (s : State) (c : Cmd) : State :=
  let t := s.t
  let held := t.holds && s.farDest c
  let queued := (t.eng.cmds.filter fun x => !x.held).length
  if c.op = .marr ∧ 6 ≤ t.pipe.marrs.length then s.onT fun t => { t with pipe.grp.back := some .marr }
  else if !held ∧ 16 ≤ queued then s.onT fun t => { t with pipe.grp.back := some .queue }
  else if (c.op = .ixst ∨ c.op = .ixend) ∧ t.eng.cmds.any fun x => !x.held && cmdPath x = 3 then
    s.onT fun t => { t with pipe.grp.back := some .queue }
  else
    match s.fireTrap c with
    | some tr => s.onT fun t => t.raise tr
    | none =>
      if held ∧ 16 ≤ (t.eng.cmds.filter (·.held)).length then
        s.onT (·.overflow 4)
      else
        let n := s.counted c
        let c := { c with held, counted := n, total := if !held && s.nothingToDo c && !fenced t c then 0 else c.total }
        (s.onT fun t =>
          { (t.addCtr c.ctr n) with
            eng.cmds := t.eng.cmds ++ [c], pipe.ord := t.pipe.ord + 1,
            pipe.marrs := if c.op = .marr then t.pipe.marrs ++ [c.tag.toNat % 256] else t.pipe.marrs }).onT (·.startCmds)

/-- The command that an EN syllable fires: the staging and fcr captured in its issue cycle (R203). -/
def capture (s : State) (op : EngOp) (ctr : Nat) (cw ret : Bool) (red : Nat) (tag : BitVec 16) (ss ds : Span) : Cmd :=
  let t := s.t
  let seed : BitVec 32 := BitVec.ofNat 32 ((t.dval 7).toNat / 2 ^ 32)
  let c : Cmd :=
    { op, ctr, cw, ret, red, ss, ds, tag, d := (List.range 8).map t.dval,
      n := (List.range 4).map fun k => mget 0 t.r.nreg k, ftz := t.ftz, ord := t.pipe.ord, held := false, running := false,
      units := 0, bytes := 0, total := 0, counted := 0, acked := 0, ahead := [], flags := 0, lfsr := if seed = 0 then 1 else seed,
      met := false, faulted := false, reason := 0, index := none, pub := false }
  { c with total := c.unitCount }

end State

/-- The frame around an engine syllable (R202, R203). -/
def engineOp (i : Instr) (g : Guard) (op : EngOp) (ctr : Fin 16) (cw ret : Bool) (red : Nat) (tag : BitVec 16)
    (ss ds : Span) (s : State) : Out :=
  syllable i (s.t.guardOn g) s fun s => s.fire (s.capture op ctr.val cw ret red tag ss ds)

def execCpy (g : Guard) (ctr : Fin 16) (cw : Bool) (tag : BitVec 16) (ss ds : Span) (s : State) : Out :=
  engineOp (.cpy g ctr cw tag ss ds) g .cpy ctr cw false 0 tag ss ds s

def execCpya (g : Guard) (ctr : Fin 16) (cw ret : Bool) (op : Fin 12) (tag : BitVec 16) (ss : Span) (s : State) : Out :=
  engineOp (.cpya g ctr cw ret op tag ss) g .cpya ctr cw ret op.val tag ss none s

def execCpyp (g : Guard) (ctr : Fin 16) (cw : Bool) (tag : BitVec 16) (ds : Span) (s : State) : Out :=
  engineOp (.cpyp g ctr cw tag ds) g .cpyp ctr cw false 0 tag none ds s

def execCpyu (g : Guard) (ctr : Fin 16) (cw : Bool) (tag : BitVec 16) (ss : Span) (s : State) : Out :=
  engineOp (.cpyu g ctr cw tag ss) g .cpyu ctr cw false 0 tag ss none s

def execCpyl (g : Guard) (ctr : Fin 16) (cw : Bool) (tag : BitVec 16) (ss : Span) (s : State) : Out :=
  engineOp (.cpyl g ctr cw tag ss) g .cpyl ctr cw false 0 tag ss none s

def execCpyx (g : Guard) (ctr : Fin 16) (cw : Bool) (op : Fin 12) (tag : BitVec 16) (ss : Span) (s : State) : Out :=
  engineOp (.cpyx g ctr cw op tag ss) g .cpyx ctr cw false op.val tag ss none s

def execSig (g : Guard) (ctr : Fin 16) (cw : Bool) (tag : BitVec 16) (s : State) : Out :=
  engineOp (.sig g ctr cw tag) g .sig ctr cw false 0 tag none none s

def execIxst (g : Guard) (ctr : Fin 16) (cw : Bool) (tag : BitVec 16) (s : State) : Out :=
  engineOp (.ixst g ctr cw tag) g .ixst ctr cw false 0 tag none none s

def execIxend (g : Guard) (ctr : Fin 16) (cw : Bool) (tag : BitVec 16) (s : State) : Out :=
  engineOp (.ixend g ctr cw tag) g .ixend ctr cw false 0 tag none none s

/-- marr (R215, R319): in a redundant launch the replicas meet at it (R368). -/
def execMarr (g : Guard) (ctr : Fin 16) (cw : Bool) (m : BitVec 8) (s : State) : Out :=
  syllable (.marr g ctr cw m) (s.t.guardOn g) s fun s =>
    let n := s.t.eng.cmds.length
    let s := s.fire (s.capture .marr ctr.val cw false 0 (m.setWidth 16) none none)
    if 1 < s.t.id.copies ∧ s.t.eng.cmds.length ≠ n then s.onT fun t => t.await (.meet .marr) else s

/-! ## Engine events -/

/-- CHUNK_DELIVERY (R205): the next chunk or block of the n-th command in a core's queue is delivered, at the end of a compute cycle
(R251). -/
def execChunkDelivery (core n : Nat) (s : State) : Out :=
  .next (s.atCore core fun s =>
    match s.t.eng.cmds[n]? with
    | some c =>
      if c.running ∧ cmdPath c ≠ 4 ∧ c.units < c.total ∧ s.t.active ∧ !s.t.stands ∧ s.delivering then s.deliverNext c else s
    | none => s)

/-- COMMAND_COMPLETE (R207): the completion of a command whose every byte is delivered, at the end of a compute cycle (R251); one
with nothing to deliver need not have started (R206). -/
def execCommandComplete (core n : Nat) (s : State) : Out :=
  .next (s.atCore core fun s =>
    match s.t.eng.cmds[n]? with
    | some c =>
      if (c.running ∨ State.idle s.t c) ∧ State.unitsDone c ∧ s.t.active ∧ !s.t.stands ∧ s.delivering then s.completeCmd c else s
    | none => s)

/-- MILESTONE_ARRIVAL (R319, R321, R324): a marr whose earlier accesses are performed reaches its milestone, at the end of a compute cycle
(R251); an error stops the arriving task. -/
def execMilestoneArrival (core n : Nat) (s : State) : Out :=
  .next (s.atCore core fun s =>
    match s.t.eng.cmds[n]? with
    | some c =>
      if s.t.active ∧ !s.t.stands ∧ s.delivering ∧ c.op = .marr ∧ c.units = 0 ∧ !c.held ∧ !State.engineStopped s.t ∧ !State.fenced s.t c ∧ s.t.performed 0x1F c.ord ∧
          !(s.t.pipe.waits.contains (.meet .marr)) ∧ !s.pubOutstanding then
        let x := s.t.id.ctx
        let m := c.tag.toNat % 256
        let a : MArrival := { launch := s.t.id.launch, task := s.t.id.idx, addr := engOffset (c.dv 5),
                              val := (c.dv 6).setWidth 32, ctr := c.ctr }
        match (s.onT (·.setCmd { c with units := 1 })).arrive x m s.t.id.launch s.t.id.cnt a (c.dv 7) with
        | .ok s => s.onT (·.startCmds)
        | .error _ =>
          (s.keepMileErr x m s.t.id.launch s.t.id.cnt (c.dv 7)).onT fun t => t.engineFault c 10
      else s
    | none => s)

end Sys2Proof.Machine
end

