-- ==== Sys2Proof/Machine/Control.lean ====
section
/-! DEFINITION. The control syllables of class CT (06 R137 to R152, 10 R222, R224, R225). -/

namespace Sys2Proof.Machine

namespace CoreTask

/-! ## Group starts (R65, R130) -/

/-- Whether a syllable index is a group start (R130). -/
def isStart (t : CoreTask) (k : Nat) : Bool :=
  k < 16384 && (k = 0 || t.code.routines.any (·.base = k) || stopOf (mget 0 t.code.imem (k - 1)))

/-- The index after the group that starts at k (R65); `fuel` bounds the search. -/
def afterGroup (t : CoreTask) : Nat → Nat → Nat
  | 0, k => k
  | fuel + 1, k => if stopOf (mget 0 t.code.imem k) then k + 1 else afterGroup t fuel (k + 1)

/-- A control syllable's trap. -/
def ctFail (t : CoreTask) (cause : Nat) (val : Nat) : CoreTask := t.fail 5 cause (BitVec.ofNat 64 val)

/-- Subcode 9 at the transferring group (R130, R345). -/
def badTarget (t : CoreTask) (target : Nat) : CoreTask :=
  t.raise { cause := 0x01, sub := 9, cls := 5, val := BitVec.ofNat 64 target, reason := 0 }

/-- A taken transfer: the target group issues after one held cycle (R137). -/
def transfer (t : CoreTask) (target : Nat) : CoreTask :=
  { t with pipe.grp.xfer := some target, pipe.hold := 1 }

/-- A transfer whose target is checked (R130). -/
def transferTo (t : CoreTask) (target : Nat) (legal : Bool) : CoreTask :=
  if legal && t.isStart target then t.transfer target else t.badTarget target

/-- The syllable index that a displacement from the group start names. -/
def dispTarget (t : CoreTask) (disp : Word) : Nat := (BitVec.ofNat 64 t.pipe.grp.start + disp).toNat

/-- Marks the group as a pre-emption point (R149). A wait, waitc, bar or yield whose guard is off does nothing, and its group is none
(DESIGN CHOICE; notes/assumptions 46). -/
def preemptPoint (t : CoreTask) : CoreTask := { t with pipe.ppoint := true }

end CoreTask

/-- A control syllable that changes its task alone. -/
def controlOp (i : Instr) (g : Guard) (f : CoreTask → CoreTask) (s : State) : Out :=
  syllable i (s.t.guardOn g) s fun s => s.onT f

/-! ## Transfers and loops -/

def execBr (g : Guard) (disp : Word) (s : State) : Out :=
  controlOp (.br g disp) g (fun t => t.transferTo (t.dispTarget disp) true) s

/-- call (R139): a full stack is found before a target that is no group start; a group that ends at syllable 16,383 returns to
16,384, which no group starts at (both DESIGN CHOICE; notes/assumptions 46). -/
def execCall (g : Guard) (disp : Word) (s : State) : Out :=
  controlOp (.call g disp) g (fun t =>
    if 16 ≤ t.r.calls.length then t.ctFail 0x0B 0
    else if t.isStart (t.dispTarget disp) then
      { t with r.calls := { level := t.level, depth := t.r.b.loops.length, ret := t.pipe.grp.next } :: t.r.calls
        }.transfer (t.dispTarget disp)
    else t.badTarget (t.dispTarget disp)) s

/-- ret (R139). A call whose group ended at syllable 16,383 kept the return index 16,384, which is no group start: subcode 9 (DESIGN
CHOICE; notes/assumptions 46). -/
def execRet (g : Guard) (s : State) : Out :=
  controlOp (.ret g) g (fun t =>
    match t.r.calls with
    | e :: rest =>
      if e.level ≠ t.level then t.ctFail 0x0B 0
      else if e.depth ≠ t.r.b.loops.length then t.ctFail 0x0A 0
      else if t.isStart e.ret then { t with r.calls := rest }.transfer e.ret
      else t.badTarget e.ret
    | [] => t.ctFail 0x0B 0) s

def execJmp (g : Guard) (a : SSrc) (s : State) : Out :=
  controlOp (.jmp g a) g (fun t =>
    t.transferTo (t.src a).toNat ((t.src a).toNat < t.code.textLen)) s

/-- loop (R140). A call or loop whose target is no group start either traps for its stack or its count first (notes/assumptions 46).
With count 0 it skips the body at any depth, and in the last group of an outer loop does not step that loop's index
(notes/assumptions 36). -/
def execLoop (g : Guard) (a : SSrc) (disp : BitVec 32) (s : State) : Out :=
  controlOp (.loop g a disp) g (fun t =>
    let n := (t.src a).toNat
    let last := t.dispTarget (disp.signExtend 64)
    if n ≠ 0 ∧ (2 ^ 32 ≤ n ∨ 6 ≤ t.r.b.loops.length) then t.ctFail 0x0A 0
    else if last ≤ t.pipe.grp.start ∨ !t.isStart last then t.badTarget last
    else if n = 0 then { t with pipe.grp.xfer := some (t.afterGroup 16384 last) }
    else { t with r.b.loops := { count := n, idx := 0, first := t.pipe.grp.next, last } :: t.r.b.loops,
                  pipe.grp.xfer := some t.pipe.grp.next }) s

/-- lexit (R142). -/
def execLexit (g : Guard) (s : State) : Out :=
  controlOp (.lexit g) g (fun t =>
    match t.r.b.loops with
    | e :: rest =>
      if t.r.calls.head?.any (fun c => c.level = t.level && c.depth = t.r.b.loops.length) then t.ctFail 0x0A 0
      else { t with r.b.loops := rest, pipe.grp.xfer := some (t.afterGroup 16384 e.last) }
    | [] => t.ctFail 0x0A 0) s

/-! ## Routine calls (R144, R222, R224, R225) -/

/-- The 64-bit stack of a footprint program (R295). -/
def runProg (g : Nat → Word) : Nat → List Byte → List Word → Option Word
  | 0, _, _ => none
  | fuel + 1, code, st =>
    match code with
    | [] => none
    | op :: rest =>
      let o := op.toNat
      if o = 0 then (match st with | [x] => some x | _ => none)
      else if o = 1 then
        if st.length < 8 then
          runProg g fuel (rest.drop 4) (BitVec.ofInt 64 (sx 32 (leNat (rest.take 4))) :: st)
        else none
      else if 0x10 ≤ o ∧ o ≤ 0x17 then
        if st.length < 8 then runProg g fuel rest (g (o - 0x10) :: st) else none
      else match st with
        | y :: x :: st =>
          if o = 0x20 then runProg g fuel rest ((x + y) :: st)
          else if o = 0x21 then runProg g fuel rest ((x - y) :: st)
          else if o = 0x22 then runProg g fuel rest ((x * y) :: st)
          else if o = 0x23 then runProg g fuel rest ((x <<< (y.toNat % 64)) :: st)
          else none
        | _ => none

/-- The scratch ranges of a contract for the parameters g: none when a program fails. -/
def scratchRanges (g : Nat → Word) (cs : List Clause) : Option (List (Word × Word)) :=
  (cs.filterMap fun c => match c with | .scratch a n => some (a, n) | _ => none).mapM fun p =>
    match runProg g 64 p.1 [], runProg g 64 p.2 [] with
    | some a, some n => some (a, n)
    | _, _ => none

namespace CoreTask

/-- The footprint ranges of a call, or none when one is negative in length, leaves [0, S − 0x8000), or leaves the
caller's own ranges; the routine reported is the second part (R222). -/
def callRanges (t : CoreTask) (idx : Nat) (r : Routine) : Except Nat (List (Nat × Nat)) :=
  match scratchRanges (fun k => mget 0 t.r.greg k) r.clauses with
  | none => .error idx
  | some l =>
    if l.any fun p => p.2.toInt < 0 || t.usable < p.1.toNat + p.2.toNat then .error idx
    else
      let l := l.map fun p => (p.1.toNat, p.2.toNat)
      match t.r.frames with
      | fr :: _ =>
        if l.all fun p => covered fr.ranges (p.1 + p.2) (fr.ranges.length + 1) p.1 then .ok l
        else .error fr.idx
      | [] => .ok l

/-- A fresh bank for a routine: s24 to s31 hold g0 to g7, the rest 0 (R224). -/
def freshBank (g : Nat → Word) : Bank :=
  { Bank.zero with s := (List.range 8).foldl (fun m k => mset 0 m (24 + k) (g k)) [] }

/-- Entering a body (R144, R224). -/
def enterBody (t : CoreTask) (idx : Nat) (r : Routine) (ranges : List (Nat × Nat)) (ctr : Option Nat) (ret : Nat) :
    CoreTask :=
  { t with r.frames := { idx, ret, bank := t.r.b, lat := t.code.lat, async := ctr, ranges, saved := none, flags := 0x3F, back := none } :: t.r.frames,
           r.b := freshBank fun k => mget 0 t.r.greg k,
           code.lat := r.lat }

/-- Whether a call to a routine is bound to its native unit on this core (R229). -/
def isNative (r : Routine) : Bool := r.bound && r.unit.isSome

/-- Whether a result writes a footprint register of a catalogue entry: acc0 of pmm.blk, h0 to h3 of the others (R228). -/
def footEff (u : Native) (e : Eff) : Bool :=
  match u, e with
  | .pmmBlk, .ppac a .. | .pmmBlk, .accz a .. | .pmmBlk, .accwr a .. | .pmmBlk, .accld a .. | .pmmBlk, .accexp a _ => a.val = 0
  | .pmmBlk, _ => false
  | _, e => (effDest e).2.any fun r => match r with | .h _ => true | _ => false

/-- The rows h0 to h3 whose loads are outstanding (R72). -/
def lateRows (t : CoreTask) : List Nat :=
  (List.range 4).filter fun k => t.pipe.loads.any fun l => (effDest (.load l.req l.vals)).2.contains (.h (fin 4 k))

/-- The scratchpad as the plane path reads it, and for the reads of a native unit as if nothing were pending in it (R180, R230). -/
def planeLocal (t : CoreTask) : Local :=
  { t.lm with scratch := t.lm.plane.foldl (fun m w => writeByte m w.addr w.val) (t.pathScratch 1),
              tags := t.lm.plane.foldl (fun m w => mset 0 m (w.addr / 2048) 0) t.lm.tags,
              behind := [], undo := [], plane := [], inbox := [], leases := [] }

/-- What the definition of a call finds at its entry when the task stands as it does (R225, R230, R243). -/
def entering (t : CoreTask) (c : NativeCall) : NativeCall :=
  { c with regs := t.r, lm := t.planeLocal, pend := t.pipe.pend, loads := t.pipe.loads }

/-- The call whose own group still waits for something else is entered after that (R137, R243). -/
def enterLate (t : CoreTask) : CoreTask :=
  if t.pipe.waits.all (· = .native) then t
  else { t with eng.natives := t.eng.natives.map fun c => if c.since = t.pipe.lastAt then t.entering c else c }

/-- rcall and rcall.async (R144, R222, R225). The queue holds back a native asynchronous call while both places are
taken, and any other call until it is empty. -/
def callRoutine (t : CoreTask) (idx : Nat) (ctr : Option Nat) : CoreTask :=
  match t.routineOf idx with
  | none => t.badTarget 16384
  | some r =>
    if 4 ≤ t.level then t.ctFail 0x0B 0
    else match t.callRanges idx r with
      | .error k => t.ctFail 0x0C k
      | .ok ranges =>
        let async := ctr.isSome && isNative r
        if (if async then 2 ≤ t.eng.natives.length else !t.eng.natives.isEmpty) then
          { t with pipe.grp.back := some .routine }
        else
          let t := match ctr with | some n => t.addCtr n 1 | none => t
          match r.bound, r.unit with
          | true, some u =>
            let c : NativeCall :=
              t.entering { idx, unit := u, args := (List.range 8).map fun k => mget 0 t.r.greg k, fcr := t.r.fcr, fm := t.r.fm,
                           ctr, ranges, ord := t.pipe.ord, start := t.pipe.grp.start, flags := t.flagMask, regs := t.r,
                           lm := t.lm, pend := [], loads := [], since := t.pipe.seen, late := 0 }
            let t := { t with eng.natives := t.eng.natives ++ [c], pipe.ord := t.pipe.ord + 1, pipe.grp.xfer := some t.pipe.grp.next }
            if ctr.isSome then t else t.await .native
          | _, _ => (t.enterBody idx r ranges ctr t.pipe.grp.next).transfer r.base

end CoreTask

def execRcall (g : Guard) (idx : BitVec 12) (s : State) : Out :=
  controlOp (.rcall g idx) g (fun t => t.callRoutine idx.toNat none) s

def execRcallAsync (g : Guard) (idx : BitVec 12) (ctr : Fin 16) (s : State) : Out :=
  controlOp (.rcallAsync g idx ctr) g (fun t => t.callRoutine idx.toNat (some ctr.val)) s

/-- A result bound to one level's bank, bound to another's. -/
def relevel (lvl dest : Nat) : Eff → Eff
  | .sreg l d y v => .sreg (if l = lvl then dest else l) d y v
  | .pred l k b => .pred (if l = lvl then dest else l) k b
  | .row l d y m v => .row (if l = lvl then dest else l) d y m v
  | .load q v => .load (if q.lvl = lvl then { q with lvl := dest } else q) v
  | .loadBad q a => .loadBad (if q.lvl = lvl then { q with lvl := dest } else q) a
  | e => e

/-- A result bound to a level's bank that ends: it is bound to none (R224). -/
def unbind (lvl : Nat) : Eff → Eff := relevel lvl 64

/-- rret (R144, R224, R225, R231). -/
def execRret (g : Guard) (s : State) : Out :=
  controlOp (.rret g) g (fun t =>
    match t.r.frames with
    | [] => t.ctFail 0x0B 0
    | fr :: rest =>
      let lvl := t.level
      let t := { t with
        pipe.pend := t.pipe.pend.map fun (p : Pend) => { p with eff := unbind lvl p.eff },
        pipe.loads := t.pipe.loads.map fun (l : Load) => if l.req.lvl = lvl then { l with req.lvl := 64 } else l,
        r.calls := t.r.calls.filter fun c => c.level < lvl,
        r.frames := rest, r.b := fr.bank, code.lat := fr.lat }
      let t := match fr.async with | some n => t.subCtr n 1 | none => t
      let t := match fr.saved with
        | some (fcr, fm) =>
          { t with r.fcr := fcr, r.fm := fm, eng.natives := t.eng.natives.map t.entering }
        | none => t
      let t := match fr.back with
        | some (m, again, kept) => { t with pipe.suppress := m, pipe.recount := again, pipe.kept := kept }
        | none => t
      t.transfer fr.ret) s

/-! ## Waiting (R145 to R149) -/

/-- wait (R145). Its word is read as a core-path load reads it (R246, R247); an armed comparator sees every write (R251), and a word met at
its newest value orders what it tells of (R248). A word in an uncorrectable sector is not compared: the task waits, and 0x0E stops it there (R195, R345; DEDUCED;
notes/assumptions 46). -/
def execWait (g : Guard) (cc : WCond) (addr value timeout : SSrc) (k : Fin 8) (s : State) : Out :=
  controlOp (.wait g cc addr value timeout k) g (fun t =>
    let a := (t.src addr).toNat
    let v := (t.src value).setWidth 32
    let tt := (t.src timeout).toNat % 2 ^ 32
    if a % 4 ≠ 0 ∨ t.usable < a + 4 then t.ctFail 0x03 a
    else match t.rangeFault a 4 with
      | some r => t.ctFail 0x0C r
      | none =>
        let t := t.preemptPoint
        if (t.wordBad a).isNone ∧ waitCond cc (BitVec.ofNat 32 (t.pathNat 0 a 4)) v then
          let newest := (List.range 4).all fun i => (t.stale 0 (a + i)).isNone
          let t := if newest then (t.saw a 4).observed a else t.saw a 4
          (if tt = 0 then t else t.schedule 1 0 (.pred t.level k false) 0)
        else ((t.pass (fun e => CoreTask.inWord a e.addr) (· = 0)).await (.word a cc v (tt != 0) tt k)).badWords) s

/-- waitc (R146). -/
def execWaitc (g : Guard) (ctr : Fin 16) (thr : SSrc) (s : State) : Out :=
  controlOp (.waitc g ctr thr) g (fun t =>
    let n := (t.src thr).toNat % 2 ^ 32
    let t := t.preemptPoint
    if t.ctr ctr.val ≤ n then t else t.await (.ctr ctr.val n)) s

/-- bar (R147, R315): the last arrival lets every task of the group go. -/
def execBar (g : Guard) (s : State) : Out :=
  syllable (.bar g) (s.t.guardOn g) s fun s =>
    let s := s.onT (·.preemptPoint)
    if (s.tasks.filter (State.mates s.t)).all fun t => t.id.core = s.t.id.core || t.pipe.barArr || t.ctl.st = .halted
    then ((s.onT fun t => { t with pipe.barArr := true }).barrier)
    else s.onT fun t => { t with pipe.barArr := true }.await .bar

/-- yield (R148). A guarded-off yield, wait, waitc or bar makes its group no pre-emption point (R149 speaks of a group that contains
one: DESIGN CHOICE; notes/assumptions 46). -/
def execYield (g : Guard) (s : State) : Out :=
  controlOp (.yield g) g (fun t => t.preemptPoint) s

/-! ## Halting and software stops (R150, R151) -/

/-- halt (R150, R368). -/
def execHalt (g : Guard) (s : State) : Out :=
  controlOp (.halt g) g (fun t =>
    if t.level ≠ 0 then t.ctFail 0x0B 0
    else
      let t := { t with pipe.grp.halting := true }
      let t := if t.eng.natives.isEmpty then t else t.await .halt
      if 1 < t.id.copies then t.await (.meet .halt) else t) s

/-- A software stop, taken after the group's writes unless another syllable traps (R151). -/
def softStop (t : CoreTask) (cause : Nat) (code : BitVec 32) : CoreTask :=
  { t with pipe.grp.soft := some { cause, sub := 0, cls := 5, val := code.setWidth 64, reason := 0 } }

def execTrap (g : Guard) (code : BitVec 32) (s : State) : Out :=
  controlOp (.trap g code) g (fun t => softStop t 0x0F code) s

def execBrk (g : Guard) (code : BitVec 32) (s : State) : Out :=
  controlOp (.brk g code) g (fun t => softStop t 0x10 code) s

/-! ## Control registers (R77, R79, R152) -/

def execSetfm (g : Guard) (k : Fin 8) (a : SSrc) (s : State) : Out :=
  controlOp (.setfm g k a) g (fun t => t.shadow (.fm k (t.src a))) s

/-- What a write of fcr keeps (R45, R152). -/
def fcrValue (v : Word) : BitVec 3 := if v.toNat % 4 = 3 then v.setWidth 3 &&& 4 else v.setWidth 3

def execSetfcr (g : Guard) (fsr : Bool) (a : SSrc) (s : State) : Out :=
  controlOp (.setfcr g fsr a) g (fun t =>
    t.shadow (if fsr then .fsr ((t.src a).setWidth 6) else .fcr (fcrValue (t.src a)))) s

/-- What DTIME reads: device time, or in a redundant launch its start time (R77). -/
def State.dtime (s : State) : Word :=
  if 1 < s.t.id.copies then
    match s.exe.launches.find? fun l => l.id = s.t.id.launch with
    | some l => BitVec.ofNat 64 (l.start.getD 0)
    | none => 0
  else BitVec.ofNat 64 s.deviceTime

/-- LCYCLE as the group in issue reads it: the groups issued before it. One issued again after a stop has counted already
(R77, R151). -/
def CoreTask.issuedBefore (t : CoreTask) : Word := if t.pipe.recount then t.r.lcycle - 1 else t.r.lcycle

/-- The value of a control register in this cycle (R77). -/
def State.ctlReg (s : State) (n : Nat) : Word :=
  let t := s.t
  if n = 0x000 then t.r.fcr.setWidth 64
  else if n = 0x001 then t.r.fsr.setWidth 64
  else if n < 0x018 then mget 0 t.r.fm (n - 0x010)
  else if n = 0x050 then BitVec.ofNat 64 t.id.cidBase
  else if n = 0x051 then BitVec.ofNat 64 t.id.idx
  else if n = 0x052 then BitVec.ofNat 64 t.id.cnt
  else if n = 0x053 then BitVec.ofNat 64 t.id.gidx
  else if n = 0x054 then BitVec.ofNat 64 t.id.cidx
  else if n = 0x055 then t.id.base
  else if n = 0x056 then t.issuedBefore
  else if n = 0x057 then s.dtime
  else if n = 0x060 then t.r.xpc
  else if n = 0x061 then t.r.xcause.setWidth 64
  else if n = 0x062 then t.r.xval
  else if n = 0x063 then t.r.xmask.setWidth 64
  else if n < 0x080 then BitVec.ofNat 64 (t.ctr (n - 0x070))
  else (t.lfsrOf (n - 0x100)).setWidth 64

/-- What an ordered task notes of an input it reads: DTIME or a counter (R380). -/
def noteInput (t : CoreTask) (n : Nat) (v : Word) : CoreTask :=
  if t.id.ordered then
    if n = 0x057 then { t with held.inputs := t.held.inputs ++ [(0, t.issuedBefore, v)] }
    else if 0x070 ≤ n ∧ n < 0x080 then { t with held.inputs := t.held.inputs ++ [(1, t.issuedBefore, v)] }
    else t
  else t

/-- rdctl (R152): of class 7, with no latch. -/
def execRdctl (g : Guard) (d : SReg) (r : BitVec 12) (s : State) : Out :=
  syllable (.rdctl g d r) (s.t.guardOn g) s fun s => s.onT fun t =>
    (noteInput t r.toNat (s.ctlReg r.toNat)).result 7 (.sreg t.level (some d) none (s.ctlReg r.toNat)) 0

/-- wrctl (R152): fcr, fsr and fm take effect at c + 4; an LFSR at once, unless an active level's clauses lack the lane
(R223). -/
def execWrctl (g : Guard) (r : BitVec 12) (a : SSrc) (s : State) : Out :=
  controlOp (.wrctl g r a) g (fun t =>
    let n := r.toNat
    let v := t.src a
    if n = 0 then t.shadow (.fcr (fcrValue v))
    else if n = 1 then t.shadow (.fsr (v.setWidth 6))
    else if n < 0x018 then t.shadow (.fm (fin 8 (n - 0x010)) v)
    else match t.laneDenied [n - 0x100] with
      | some k => t.ctFail 0x0C k
      | none => t.setLfsr (n - 0x100) (if v.setWidth 32 = (0 : BitVec 32) then 1 else v.setWidth 32)) s

end Sys2Proof.Machine
end

