-- ==== Sys2Proof/Machine/Plane.lean ====
section
/-! DEFINITION. The plane syllables of class PL (08_planes R173 to R190). -/

namespace Sys2Proof.Machine

/-- The addresses of the A bytes of a plane product: row ra of slab ia, and its scale byte (R176, R177). -/
def readsA (f : Word) (base ia ra : Nat) : List Nat :=
  (List.range 16).map (fun k => base + ia * 512 + 16 * ra + k) ++
    if fmScales f then [base + fmS f * 512 + ra] else []

/-- The addresses of the B bytes: slab ib, and its scale bytes. -/
def readsB (f : Word) (base ib : Nat) : List Nat :=
  (List.range 512).map (fun k => base + ib * 512 + k) ++
    if fmScales f then (List.range 32).map (fun k => base + fmS f * 512 + k) else []

/-- The bank group of an address (R82, R177). -/
def bankGroup (a : Nat) : Nat := a / 2 ^ 17 % 8

/-- The tag code a record declares: 0 none, 8 + n span code n (R87, R179). -/
def declaredTag (f : Word) : BitVec 4 := if fmSwz f then BitVec.ofNat 4 (8 + fmSpan f) else 0

namespace CoreTask

def fm (t : CoreTask) (k : Nat) : Word := mget 0 t.r.fm k

/-- The swizzle tag of a region as the plane path sees it: an accst that lands in this cycle has cleared it (R174, R185). -/
def planeTag (t : CoreTask) (k : Nat) : BitVec 4 :=
  if t.lm.plane.any fun w => w.addr / 2048 = k then 0 else mget 0 t.lm.tags k

/-- A plane-path trap. -/
def planeTrap (cause val : Nat) : Trap := { cause, sub := 0, cls := 7, val := BitVec.ofNat 64 val, reason := 0 }

/-- The lowest address of a block [base, base + len) that is misaligned or leaves the plane path's reach (R175 check 5,
R185). -/
def blockFault (t : CoreTask) (align base len : Nat) : Option Nat :=
  if base % align ≠ 0 ∨ t.usable ≤ base then some base
  else if t.usable < base + len then some t.usable else none

/-- Whether the innermost routine is pmm.blk, native or not: its records are views of one plane (R235, R236, R240). -/
def inPmm (t : CoreTask) : Bool :=
  match t.r.frames with
  | fr :: _ => ((t.routineOf fr.idx).bind (·.unit)) = some .pmmBlk
  | [] => false

/-- The first of some addresses whose byte lies in an uncorrectable sector (R195). -/
def badByte (t : CoreTask) (l : List Nat) : Option Nat := l.find? fun a => t.lm.bad.contains (a / 32)

/-- The checks 3 to 7 of R175, with that of a view in pmm.blk (R240) and the footprint of a body or an outstanding call after check 5. -/
def ppacTrap (t : CoreTask) (fa fb : Word) (va vb ia ib ra : Nat) : Option Trap :=
  if fmBad fa ∨ (t.inPmm ∧ fmW fa ≠ 1) then some (planeTrap 0x07 fa.toNat)
  else if fmBad fb ∨ (t.inPmm ∧ fmW fb ≠ 1) then some (planeTrap 0x07 fb.toNat)
  else if fmW fa ≤ ia then some (planeTrap 0x07 fa.toNat)
  else if fmW fb ≤ ib then some (planeTrap 0x07 fb.toNat)
  else match t.blockFault 512 va (fmS fa * 512 + 64), t.blockFault 512 vb (fmS fb * 512 + 64) with
    | some a, _ => some (planeTrap 0x03 a)
    | none, some b => some (planeTrap 0x03 b)
    | none, none =>
      let ra := readsA fa va ia ra
      let rb := readsB fb vb ib
      match (ra ++ rb).findSome? fun a => t.rangeFault a 1 with
      | some r => some (planeTrap 0x0C r)
      | none =>
        match ra.find? fun a => rb.any fun b => bankGroup a == bankGroup b with
        | some a => some (planeTrap 0x05 (bankGroup a * 17))
        | none =>
          let bad (f : Word) (a : Nat) : Bool := t.planeTag (a / 2048) != declaredTag f
          ((ra.find? (bad fa)).or (rb.find? (bad fb))).map fun a => planeTrap 0x06 (a / 2048 * 2048)

/-- The bytes that a plane product reads (R176, R178). -/
def ppacReads (fa fb : Word) (va vb ia ib ra : Nat) : List Nat :=
  (readsA fa va ia ra).map (fmAddr fa) ++ (readsB fb vb ib).map (fmAddr fb)

/-- The little-endian value that plane_read gives (R178). -/
def planeRead (t : CoreTask) (f : Word) (a n : Nat) : Nat :=
  leNat ((List.range n).map fun i => t.planeByte (fmAddr f (a + i)))

/-- The 32 contributions v and exponents E of a plane product (R176). -/
def ppacTerms (t : CoreTask) (fa fb : Word) (va vb ia ib ra : Nat) : List Int × List Int :=
  let neg := ((ia = 0 && fmSign fa ≠ 0) != (ib = 0 && fmSign fb ≠ 0))
  let rowA : BitVec 128 := BitVec.ofNat 128 (t.planeRead fa (va + ia * 512 + 16 * ra) 16)
  let scA : Int := if fmScales fa then sx 8 (t.planeRead fa (va + fmS fa * 512 + ra) 1) else 0
  let pos : Int := ((fmS fa - 1 - ia) + (fmS fb - 1 - ib) : Nat)
  let col (c : Nat) : Int × Int :=
    let colB : BitVec 128 := BitVec.ofNat 128 (t.planeRead fb (vb + ib * 512 + 16 * c) 16)
    let scB : Int := if fmScales fb then sx 8 (t.planeRead fb (vb + fmS fb * 512 + c) 1) else 0
    let n : Int := (popcount (rowA &&& colB) : Nat)
    (if neg then -n else n, pos + scA + scB)
  (((List.range 32).map col).map (·.1), ((List.range 32).map col).map (·.2))

end CoreTask

/-- The frame around a plane syllable: its guard, its accumulator tile (0x02), and a trap found at issue (R173 to
R175); then the bytes it reads: one of an uncorrectable sector holds its group back, and 0x0E stands before it (R195, R345; that a plane
read is such a consumer is DEDUCED; notes/assumptions 56). -/
def planeOp (i : Instr) (g : Guard) (acc : Fin 4) (trap : CoreTask → Option Trap) (reads : CoreTask → List Nat)
    (f : CoreTask → CoreTask) (s : State) : Out :=
  syllable i (s.t.guardOn g) s fun s => s.onT fun t =>
    if t.accOk acc then
      match trap t with
      | some tr => t.raise tr
      | none =>
        match t.badByte (reads t) with
        | some a => { t with pipe.grp.back := some (.memory a) }
        | none => f t
    else t.fail 7 0x02 0

/-- ppac (R175, R176). -/
def execPpac (g : Guard) (acc : Fin 4) (r : Fin 32) (a b : SSrc) (ia ib : Fin 16) (fx fy : Fin 8) (ra : Fin 32)
    (s : State) : Out :=
  planeOp (.ppac g acc r a b ia ib fx fy ra) g acc
    (fun t => t.ppacTrap (t.fm fx.val) (t.fm fy.val) (t.src a).toNat (t.src b).toNat ia.val ib.val ra.val)
    (fun t => CoreTask.ppacReads (t.fm fx.val) (t.fm fy.val) (t.src a).toNat (t.src b).toNat ia.val ib.val ra.val)
    (fun t =>
      let x := t.ppacTerms (t.fm fx.val) (t.fm fy.val) (t.src a).toNat (t.src b).toNat ia.val ib.val ra.val
      t.result 6 (.ppac acc r.val x.1 x.2) 0) s

/-- accz (R181). -/
def execAccz (g : Guard) (acc : Fin 4) (f : Fin 32) (n : BitVec 6) (e : BitVec 16) (s : State) : Out :=
  planeOp (.accz g acc f n e) g acc (fun _ => none) (fun _ => []) (fun t => t.result 6 (.accz acc f.val n.toNat e) 0) s

/-- The lane that receives entry j of an accrd, whose LFSR it turns (R183). -/
def accrdLane (ty : ElemTy) (h : Bool) (j : Nat) : Nat :=
  if ty = .i64 then 2 * j else (if h then 32 else 0) + j

/-- accrd (R183): the conversion happens at c + L; LFSR turns are taken at issue. -/
def execAccrd (g : Guard) (acc : Fin 4) (r : Fin 32) (ty : ElemTy) (rnd : Rnd) (d : RowSpec) (h : Bool)
    (s : State) : Out :=
  planeOp (.accrd g acc r ty rnd d h) g acc
    (fun t =>
      if (t.rowAt d).isNone then some (CoreTask.planeTrap 0x02 0)
      else if t.rmode rnd = .sr then
        (t.laneDenied ((List.range 32).map (accrdLane ty h))).map (CoreTask.planeTrap 0x0C)
      else none)
    (fun _ => [])
    (fun t =>
      match t.rowAt d with
      | none => t
      | some dd =>
        let lanes := (List.range 32).map (accrdLane ty h)
        let states := lanes.map t.lfsrOf
        let t := if t.rmode rnd = .sr then lanes.foldl (fun t k => t.setLfsr k (lfsrStep (t.lfsrOf k))) t else t
        t.result 6 (.accrd acc r.val ty (t.rmode rnd) t.ftz dd h states) 0) s

/-- accwr (R184). -/
def execAccwr (g : Guard) (acc : Fin 4) (r : Fin 32) (ty : ElemTy) (a : RowSpec) (h : Bool) (s : State) : Out :=
  planeOp (.accwr g acc r ty a h) g acc
    (fun t => if t.rowsOk [a] then none else some (CoreTask.planeTrap 0x02 0))
    (fun _ => [])
    (fun t =>
      let v := (List.range 32).map fun j =>
        if ty = .i64 then BitVec.ofNat 64 ((t.rowSrc 64 a).getD j 0)
        else BitVec.ofInt 64 (sx 32 ((t.rowSrc 32 a).getD ((if h then 32 else 0) + j) 0))
      t.result 6 (.accwr acc r.val v) 0) s

/-- The trap of an accumulator move of n rows at an address (R185, R222). -/
def CoreTask.accMoveTrap (t : CoreTask) (a n : Nat) : Option Trap :=
  match t.blockFault 256 a (256 * n) with
  | some x => some (CoreTask.planeTrap 0x03 x)
  | none => (t.rangeFault a (256 * n)).map (CoreTask.planeTrap 0x0C)

/-- accld (R185): the bytes are read at issue. -/
def execAccld (g : Guard) (acc : Fin 4) (f : Fin 32) (n : BitVec 6) (a : SSrc) (s : State) : Out :=
  planeOp (.accld g acc f n a) g acc (fun t => t.accMoveTrap (t.src a).toNat n.toNat)
    (fun t => (List.range (256 * n.toNat)).map ((t.src a).toNat + ·))
    (fun t =>
      let v := (List.range (32 * n.toNat)).map fun k => BitVec.ofNat 64 (t.planeNat ((t.src a).toNat + 8 * k) 8)
      t.result 6 (.accld acc f.val v) 0) s

/-- accst (R185): the entries are read and the bytes written at c + L. -/
def execAccst (g : Guard) (acc : Fin 4) (f : Fin 32) (n : BitVec 6) (a : SSrc) (s : State) : Out :=
  planeOp (.accst g acc f n a) g acc (fun t => t.accMoveTrap (t.src a).toNat n.toNat) (fun _ => [])
    (fun t => t.result 6 (.accst acc f.val n.toNat (t.src a).toNat) 0) s

/-- accexp (R182). -/
def execAccexp (g : Guard) (acc : Fin 4) (e : BitVec 16) (s : State) : Out :=
  planeOp (.accexp g acc e) g acc (fun _ => none) (fun _ => []) (fun t => t.result 6 (.accexp acc e) 0) s

end Sys2Proof.Machine
end

