-- ==== Sys2Proof/Machine/Scalar.lean ====
section
/-! DEFINITION. The scalar, predicate and staging syllables of classes SA and SB (06_scalar_control R132 to R136). -/

namespace Sys2Proof.Machine

namespace CoreTask

/-- A scalar result in flight: the destination and the slot's latch (R75, R132). -/
def scalarResult (t : CoreTask) (cls : Nat) (sl : Slot) (d : SDst) (v : Word) : CoreTask :=
  t.result cls (.sreg t.level (dstReg d) (some (slotLatch sl)) v) 0

/-- A predicate result in flight, of class 0 (R134). -/
def predResult (t : CoreTask) (k : Fin 8) (b : Bool) : CoreTask := t.result 0 (.pred t.level k b) 0

end CoreTask

/-- A scalar syllable whose value is `v` (R132). -/
def scalarOp (i : Instr) (g : Guard) (cls : Nat) (sl : Slot) (d : SDst) (v : Word) (s : State) : Out :=
  syllable i (s.t.guardOn g) s fun s => s.onT fun t => t.scalarResult cls sl d v

/-- A compare or predicate syllable whose value is `b` (R134). -/
def predOp (i : Instr) (g : Guard) (k : Fin 8) (b : Bool) (s : State) : Out :=
  syllable i (s.t.guardOn g) s fun s => s.onT fun t => t.predResult k b

/-! ## Values -/

/-- cond(cc, x, y) (R134). -/
def condHolds (cc : Cond) (x y : Word) : Bool :=
  match cc with
  | .eq => x = y
  | .ne => x ≠ y
  | .lt => x.slt y
  | .ge => !x.slt y
  | .ltu => x.ult y
  | .geu => !x.ult y

/-- The high half of a 128-bit product (R133). -/
def highSigned (a b : Word) : Word := BitVec.ofInt 64 (a.toInt * b.toInt / 2 ^ 64)
def highUnsigned (a b : Word) : Word := BitVec.ofNat 64 (a.toNat * b.toNat / 2 ^ 64)

/-- Leading zero bits, 0 to 64 (R133). -/
def leadingZeros (a : Word) : Nat := if a = 0 then 64 else 63 - Nat.log2 a.toNat

/-- Trailing zero bits, 0 to 64 (R133). -/
def trailingZeros (a : Word) : Nat := ((List.range 64).find? fun k => bitOf a k).getD 64

/-- Sign extension of the low 32 bits (addw, subw, mulw; R133). -/
def sxWord (a : BitVec 32) : Word := a.signExtend 64

/-- The bits of an sext or zext source width. -/
def swidthBits : SWidth → Nat
  | .b8 => 8
  | .b16 => 16
  | .b32 => 32

/-- n ones from bit p up. -/
def fieldMask (p n : Nat) : Word := BitVec.ofNat 64 ((2 ^ n - 1) * 2 ^ p)

/-- The old value that bfi reads: the destination, or with 0x80 the slot's latch (R133). -/
def bfiOld (t : CoreTask) (sl : Slot) : SDst → Word
  | .reg r => t.sreg r
  | .latch => t.latch (slotLatch sl)

/-! ## Meanings -/

def execNop (sl : Slot) (g : Guard) (s : State) : Out :=
  syllable (.nop sl g) (s.t.guardOn g) s id

def execAdd (sl : Slot) (g : Guard) (d : SDst) (a b : SSrc) (s : State) : Out :=
  scalarOp (.add sl g d a b) g 0 sl d (s.t.src a + s.t.src b) s

def execSub (sl : Slot) (g : Guard) (d : SDst) (a b : SSrc) (s : State) : Out :=
  scalarOp (.sub sl g d a b) g 0 sl d (s.t.src a - s.t.src b) s

def execAddi (sl : Slot) (g : Guard) (d : SDst) (a : SSrc) (imm : Word) (s : State) : Out :=
  scalarOp (.addi sl g d a imm) g 0 sl d (s.t.src a + imm) s

def execMul (sl : Slot) (g : Guard) (d : SDst) (a b : SSrc) (s : State) : Out :=
  scalarOp (.mul sl g d a b) g 1 sl d (s.t.src a * s.t.src b) s

def execMulh (sl : Slot) (g : Guard) (d : SDst) (a b : SSrc) (s : State) : Out :=
  scalarOp (.mulh sl g d a b) g 1 sl d (highSigned (s.t.src a) (s.t.src b)) s

def execMulhu (sl : Slot) (g : Guard) (d : SDst) (a b : SSrc) (s : State) : Out :=
  scalarOp (.mulhu sl g d a b) g 1 sl d (highUnsigned (s.t.src a) (s.t.src b)) s

def execAnd (sl : Slot) (g : Guard) (d : SDst) (a b : SSrc) (s : State) : Out :=
  scalarOp (.and sl g d a b) g 0 sl d (s.t.src a &&& s.t.src b) s

def execOr (sl : Slot) (g : Guard) (d : SDst) (a b : SSrc) (s : State) : Out :=
  scalarOp (.or sl g d a b) g 0 sl d (s.t.src a ||| s.t.src b) s

def execXor (sl : Slot) (g : Guard) (d : SDst) (a b : SSrc) (s : State) : Out :=
  scalarOp (.xor sl g d a b) g 0 sl d (s.t.src a ^^^ s.t.src b) s

def execAndn (sl : Slot) (g : Guard) (d : SDst) (a b : SSrc) (s : State) : Out :=
  scalarOp (.andn sl g d a b) g 0 sl d (s.t.src a &&& ~~~s.t.src b) s

def execShl (sl : Slot) (g : Guard) (d : SDst) (a b : SSrc) (s : State) : Out :=
  scalarOp (.shl sl g d a b) g 0 sl d (s.t.src a <<< ((s.t.src b).toNat % 64)) s

def execShr (sl : Slot) (g : Guard) (d : SDst) (a b : SSrc) (s : State) : Out :=
  scalarOp (.shr sl g d a b) g 0 sl d (s.t.src a >>> ((s.t.src b).toNat % 64)) s

def execSar (sl : Slot) (g : Guard) (d : SDst) (a b : SSrc) (s : State) : Out :=
  scalarOp (.sar sl g d a b) g 0 sl d ((s.t.src a).sshiftRight ((s.t.src b).toNat % 64)) s

def execShli (sl : Slot) (g : Guard) (d : SDst) (a : SSrc) (n : BitVec 6) (s : State) : Out :=
  scalarOp (.shli sl g d a n) g 0 sl d (s.t.src a <<< n.toNat) s

def execShri (sl : Slot) (g : Guard) (d : SDst) (a : SSrc) (n : BitVec 6) (s : State) : Out :=
  scalarOp (.shri sl g d a n) g 0 sl d (s.t.src a >>> n.toNat) s

def execSari (sl : Slot) (g : Guard) (d : SDst) (a : SSrc) (n : BitVec 6) (s : State) : Out :=
  scalarOp (.sari sl g d a n) g 0 sl d ((s.t.src a).sshiftRight n.toNat) s

def execAndi (sl : Slot) (g : Guard) (d : SDst) (a : SSrc) (imm : Word) (s : State) : Out :=
  scalarOp (.andi sl g d a imm) g 0 sl d (s.t.src a &&& imm) s

def execOri (sl : Slot) (g : Guard) (d : SDst) (a : SSrc) (imm : Word) (s : State) : Out :=
  scalarOp (.ori sl g d a imm) g 0 sl d (s.t.src a ||| imm) s

def execXori (sl : Slot) (g : Guard) (d : SDst) (a : SSrc) (imm : Word) (s : State) : Out :=
  scalarOp (.xori sl g d a imm) g 0 sl d (s.t.src a ^^^ imm) s

def execMin (sl : Slot) (g : Guard) (d : SDst) (a b : SSrc) (s : State) : Out :=
  scalarOp (.min sl g d a b) g 0 sl d (if (s.t.src b).slt (s.t.src a) then s.t.src b else s.t.src a) s

def execMax (sl : Slot) (g : Guard) (d : SDst) (a b : SSrc) (s : State) : Out :=
  scalarOp (.max sl g d a b) g 0 sl d (if (s.t.src a).slt (s.t.src b) then s.t.src b else s.t.src a) s

def execMinu (sl : Slot) (g : Guard) (d : SDst) (a b : SSrc) (s : State) : Out :=
  scalarOp (.minu sl g d a b) g 0 sl d (if (s.t.src b).ult (s.t.src a) then s.t.src b else s.t.src a) s

def execMaxu (sl : Slot) (g : Guard) (d : SDst) (a b : SSrc) (s : State) : Out :=
  scalarOp (.maxu sl g d a b) g 0 sl d (if (s.t.src a).ult (s.t.src b) then s.t.src b else s.t.src a) s

def execLi (sl : Slot) (g : Guard) (d : SDst) (imm : Word) (s : State) : Out :=
  scalarOp (.li sl g d imm) g 0 sl d imm s

def execMov (sl : Slot) (g : Guard) (d : SDst) (a : SSrc) (s : State) : Out :=
  scalarOp (.mov sl g d a) g 0 sl d (s.t.src a) s

def execSel (sl : Slot) (g : Guard) (d : SDst) (p : Fin 8) (a b : SSrc) (s : State) : Out :=
  scalarOp (.sel sl g d p a b) g 0 sl d (if s.t.pred p then s.t.src a else s.t.src b) s

def execClz (sl : Slot) (g : Guard) (d : SDst) (a : SSrc) (s : State) : Out :=
  scalarOp (.clz sl g d a) g 1 sl d (BitVec.ofNat 64 (leadingZeros (s.t.src a))) s

def execCtz (sl : Slot) (g : Guard) (d : SDst) (a : SSrc) (s : State) : Out :=
  scalarOp (.ctz sl g d a) g 1 sl d (BitVec.ofNat 64 (trailingZeros (s.t.src a))) s

def execPopc (sl : Slot) (g : Guard) (d : SDst) (a : SSrc) (s : State) : Out :=
  scalarOp (.popc sl g d a) g 1 sl d (BitVec.ofNat 64 (popcount (s.t.src a))) s

def execSext (sl : Slot) (g : Guard) (d : SDst) (w : SWidth) (a : SSrc) (s : State) : Out :=
  scalarOp (.sext sl g d w a) g 0 sl d (BitVec.ofInt 64 (sx (swidthBits w) (s.t.src a).toNat)) s

def execZext (sl : Slot) (g : Guard) (d : SDst) (w : SWidth) (a : SSrc) (s : State) : Out :=
  scalarOp (.zext sl g d w a) g 0 sl d (s.t.src a &&& fieldMask 0 (swidthBits w)) s

def execAddw (sl : Slot) (g : Guard) (d : SDst) (a b : SSrc) (s : State) : Out :=
  scalarOp (.addw sl g d a b) g 0 sl d (sxWord ((s.t.src a).setWidth 32 + (s.t.src b).setWidth 32)) s

def execSubw (sl : Slot) (g : Guard) (d : SDst) (a b : SSrc) (s : State) : Out :=
  scalarOp (.subw sl g d a b) g 0 sl d (sxWord ((s.t.src a).setWidth 32 - (s.t.src b).setWidth 32)) s

def execMulw (sl : Slot) (g : Guard) (d : SDst) (a b : SSrc) (s : State) : Out :=
  scalarOp (.mulw sl g d a b) g 1 sl d (sxWord ((s.t.src a).setWidth 32 * (s.t.src b).setWidth 32)) s

def execLea (sl : Slot) (g : Guard) (d : SDst) (a b : SSrc) (k : Fin 8) (s : State) : Out :=
  scalarOp (.lea sl g d a b k) g 0 sl d (s.t.src a + s.t.src b <<< k.val) s

def execBfx (sl : Slot) (g : Guard) (d : SDst) (a : SSrc) (p : BitVec 6) (n : BitVec 7) (s : State) : Out :=
  scalarOp (.bfx sl g d a p n) g 0 sl d ((s.t.src a >>> p.toNat) &&& fieldMask 0 n.toNat) s

def execBfi (sl : Slot) (g : Guard) (d : SDst) (a : SSrc) (p : BitVec 6) (n : BitVec 7) (s : State) : Out :=
  scalarOp (.bfi sl g d a p n) g 0 sl d
    ((bfiOld s.t sl d &&& ~~~fieldMask p.toNat n.toNat) ||| (s.t.src a <<< p.toNat &&& fieldMask p.toNat n.toNat)) s

def execCmp (sl : Slot) (g : Guard) (cc : Cond) (k : Fin 8) (a b : SSrc) (s : State) : Out :=
  predOp (.cmp sl g cc k a b) g k (condHolds cc (s.t.src a) (s.t.src b)) s

def execCmpi (sl : Slot) (g : Guard) (cc : Cond) (k : Fin 8) (a : SSrc) (imm : Word) (s : State) : Out :=
  predOp (.cmpi sl g cc k a imm) g k (condHolds cc (s.t.src a) imm) s

def execPand (sl : Slot) (g : Guard) (k l m : Fin 8) (s : State) : Out :=
  predOp (.pand sl g k l m) g k (s.t.pred l && s.t.pred m) s

def execPor (sl : Slot) (g : Guard) (k l m : Fin 8) (s : State) : Out :=
  predOp (.por sl g k l m) g k (s.t.pred l || s.t.pred m) s

def execPxor (sl : Slot) (g : Guard) (k l m : Fin 8) (s : State) : Out :=
  predOp (.pxor sl g k l m) g k (s.t.pred l != s.t.pred m) s

def execPnot (sl : Slot) (g : Guard) (k l : Fin 8) (s : State) : Out :=
  predOp (.pnot sl g k l) g k (!s.t.pred l) s

/-- stg (R135): the staging register and the slot's latch, of class 0. -/
def execStg (sl : Slot) (g : Guard) (r : Stage) (a : SSrc) (s : State) : Out :=
  syllable (.stg sl g r a) (s.t.guardOn g) s fun s => s.onT fun t =>
    (t.result 0 (.sreg t.level none (some (slotLatch sl)) (s.t.src a)) 0).result 0 (.stage r (s.t.src a)) 0

end Sys2Proof.Machine
end

