-- ==== Sys2Proof/Machine/Tile.lean ====
section
/-! DEFINITION. The tile row syllables of class TL (07_tile R155 to R170). -/

namespace Sys2Proof.Machine

/-- Bit 2k of a mask copied to both lanes of pair k (R157). -/
def pairMask (m : Word) : Word :=
  BitVec.ofNat 64 (packNat 2 ((List.range 32).map fun k => if bitOf m (2 * k) then 3 else 0))

/-- The lanes a mask enables for rows of a type (R157). -/
def typeMask (ty : ElemTy) (m : Word) : Word := if ty = .i64 then pairMask m else m

namespace CoreTask

/-- Computes the first n elements of a row of type `ty`, those of enabled lanes only: their bits, the flags they raise,
and the task with each lane's LFSR turned once per element when `turn` holds (R52, R155, R157). -/
def elemwise (t : CoreTask) (ty : ElemTy) (lanes : Word) (turn : Bool) (n : Nat)
    (f : Nat → BitVec 32 → Nat × Flags) : List Nat × Flags × CoreTask :=
  let r := (List.range n).foldl (fun (p : List Nat × Flags × CoreTask) j =>
    let k := ty.lane j
    if bitOf lanes k then
      let x := f j (p.2.2.lfsrOf k)
      (x.1 :: p.1, p.2.1 ||| x.2, if turn then p.2.2.setLfsr k (lfsrStep (p.2.2.lfsrOf k)) else p.2.2)
    else (0 :: p.1, p.2)) ([], 0, t)
  (r.1.reverse, r.2)

/-- The row a guarded syllable writes: excluded lanes keep the destination's value of this cycle, or become zero
(R157). -/
def guardRow (t : CoreTask) (g : TGuard) (ty : ElemTy) (d : RowAt) (v : Row) : Row :=
  match g with
  | .merge k => blend (typeMask ty (t.mask k)) v (t.row d)
  | .zero k => blend (typeMask ty (t.mask k)) v 0
  | _ => v

/-- A tile row result in flight: the destination row and yt (R75, R155). -/
def rowResult (t : CoreTask) (cls : Nat) (d : RowAt) (v : Row) (fl : Flags) : CoreTask :=
  t.result cls (.row t.level d (d != .yt) allLanes v) fl

/-- The lanes whose LFSR turns a body may not take, as the routine that forbids them (R223). -/
def turnDenied (t : CoreTask) (ty : ElemTy) (lanes : Word) (n : Nat) : Option Nat :=
  t.laneDenied (((List.range n).map ty.lane).filter fun k => bitOf lanes k)

end CoreTask

/-- The frame around a row-writing syllable: its guard, the rows it names (0x02), the lanes it turns (0x0C), and the
guarded write of the n elements `f` gives (R155, R157, R172). -/
def rowOp (i : Instr) (g : TGuard) (cls : Nat) (ty : ElemTy) (turn : Bool) (n : Nat) (rows : List RowSpec) (d : RowSpec)
    (f : CoreTask → Nat → BitVec 32 → Nat × Flags) (s : State) : Out :=
  syllable i (s.t.tguardOn g) s fun s => s.onT fun t =>
    match t.rowAt d, t.rowsOk rows with
    | some dd, true =>
      match if turn then t.turnDenied ty (t.tlanes g) n else none with
      | some r => t.fail 2 0x0C (BitVec.ofNat 64 r)
      | none =>
        let x := t.elemwise ty (t.tlanes g) turn n (f t)
        x.2.2.rowResult cls dd (t.guardRow g ty dd (packRow ty.width x.1)) x.2.1
    | _, _ => t.fail 2 0x02 0

/-- A row syllable that writes a lane mask (R162, R165, R170). -/
def maskOp (i : Instr) (g : TGuard) (cls : Nat) (rows : List RowSpec) (k : Fin 4) (f : CoreTask → Word × Flags)
    (s : State) : Out :=
  syllable i (s.t.tguardOn g) s fun s => s.onT fun t =>
    if t.rowsOk rows then t.result cls (.mask k (f t).1) (f t).2 else t.fail 2 0x02 0

/-- A row syllable that writes a scalar and no latch (R169, R170). -/
def laneScalarOp (i : Instr) (g : TGuard) (cls : Nat) (rows : List RowSpec) (d : SReg) (f : CoreTask → Word)
    (s : State) : Out :=
  syllable i (s.t.tguardOn g) s fun s => s.onT fun t =>
    if t.rowsOk rows then t.result cls (.sreg t.level (some d) none (f t)) 0 else t.fail 2 0x02 0

/-! ## Floating-point arithmetic (R160 to R162) -/

/-- Whether a mode turns the LFSR. -/
def turns (m : RMode) : Bool := m == .sr

/-- An element's exact value under fcr[2]. -/
def fread (f : FloatFmt) (t : CoreTask) (l : List Nat) (j : Nat) : FVal := f.read t.ftz (l.getD j 0)

/-- A rounding floating-point syllable: `op` gives the exact result from the sources a, b and the destination. -/
def floatOp (i : Instr) (g : TGuard) (ty : ElemTy) (rnd : Rnd) (d a b : RowSpec)
    (op : FVal → FVal → FVal → FVal × Flags) (s : State) : Out :=
  match ty.float? with
  | none => .next s
  | some f =>
    rowOp i g 3 ty (turns (s.t.rmode rnd)) ty.count [a, b] d (fun t =>
      let la := t.rowSrc ty.width a
      let lb := t.rowSrc ty.width b
      let ld := t.rowSrc ty.width d
      fun j st =>
        let r := op (fread f t la j) (fread f t lb j) (fread f t ld j)
        let v := f.round t.ftz (t.rmode rnd) st r.1
        (v.1, r.2 ||| v.2)) s

def execTadd (g : TGuard) (ty : ElemTy) (rnd : Rnd) (d a b : RowSpec) (s : State) : Out :=
  floatOp (.tadd g ty rnd d a b) g ty rnd d a b (fun x y _ => x.add y) s

def execTsub (g : TGuard) (ty : ElemTy) (rnd : Rnd) (d a b : RowSpec) (s : State) : Out :=
  floatOp (.tsub g ty rnd d a b) g ty rnd d a b (fun x y _ => x.add y.neg) s

def execTmul (g : TGuard) (ty : ElemTy) (rnd : Rnd) (d a b : RowSpec) (s : State) : Out :=
  floatOp (.tmul g ty rnd d a b) g ty rnd d a b (fun x y _ => x.mul y) s

def execTfma (g : TGuard) (ty : ElemTy) (rnd : Rnd) (d a b : RowSpec) (s : State) : Out :=
  floatOp (.tfma g ty rnd d a b) g ty rnd d a b (fun x y z => x.fma y z) s

def execTfms (g : TGuard) (ty : ElemTy) (rnd : Rnd) (d a b : RowSpec) (s : State) : Out :=
  floatOp (.tfms g ty rnd d a b) g ty rnd d a b (fun x y z => x.fma y z.neg) s

/-- The selection of tmin and tmax (R161). -/
def pick (f : FloatFmt) (smaller : Bool) (x y : FVal) : Nat × Flags :=
  if x.isNaN || y.isNaN then (f.canonNaN, flagIf (x.isSignalling || y.isSignalling) fInvalid)
  else ((f.round false .rne 0 (if y.ltTotal x == smaller then y else x)).1, 0)

/-- A floating-point syllable that does not round. -/
def exactOp (i : Instr) (g : TGuard) (ty : ElemTy) (d : RowSpec) (srcs : List RowSpec)
    (op : FloatFmt → (Nat → Nat → FVal) → Nat → Nat × Flags) (s : State) : Out :=
  match ty.float? with
  | none => .next s
  | some f =>
    rowOp i g 3 ty false ty.count srcs d (fun t =>
      let ls := srcs.map (t.rowSrc ty.width)
      fun j _ => op f (fun k j => fread f t (ls.getD k []) j) j) s

def execTmin (g : TGuard) (ty : ElemTy) (d a b : RowSpec) (s : State) : Out :=
  exactOp (.tmin g ty d a b) g ty d [a, b] (fun f e j => pick f true (e 0 j) (e 1 j)) s

def execTmax (g : TGuard) (ty : ElemTy) (d a b : RowSpec) (s : State) : Out :=
  exactOp (.tmax g ty d a b) g ty d [a, b] (fun f e j => pick f false (e 0 j) (e 1 j)) s

/-- The value with its sign set by a function of the old sign; a NaN becomes canonical (R161). -/
def resign (f : FloatFmt) (sg : Bool → Bool) (v : FVal) : Nat × Flags :=
  match v with
  | .nan sig => (f.canonNaN, flagIf sig fInvalid)
  | .inf n => ((f.round false .rne 0 (.inf (sg n))).1, 0)
  | .fin n m e => ((f.round false .rne 0 (.fin (sg n) m e)).1, 0)

def execTabs (g : TGuard) (ty : ElemTy) (d a : RowSpec) (s : State) : Out :=
  exactOp (.tabs g ty d a) g ty d [a] (fun f e j => resign f (fun _ => false) (e 0 j)) s

def execTneg (g : TGuard) (ty : ElemTy) (d a : RowSpec) (s : State) : Out :=
  exactOp (.tneg g ty d a) g ty d [a] (fun f e j => resign f (fun n => !n) (e 0 j)) s

/-- The conditions of tcmp (R162). -/
def floatCond (cc : Cond) (x y : FVal) : Bool :=
  match cc with
  | .eq => x.eqv y
  | .ne => !x.eqv y
  | .lt | .ltu => !x.isNaN && !y.isNaN && x.lt y
  | .ge | .geu => !x.isNaN && !y.isNaN && !x.lt y

/-- The mask whose bit k is 1 when every element of lane k passes; both bits of a pair for i64 (R162, R165). -/
def laneMask (ty : ElemTy) (ok : Nat → Bool) : Word :=
  BitVec.ofNat 64 (packNat 1 ((List.range 64).map fun k =>
    if ty.width = 64 then (if ok (k / 2) then 1 else 0)
    else if (List.range (32 / ty.width)).all fun i => ok (k * (32 / ty.width) + i) then 1 else 0))

def execTcmp (g : TGuard) (ty : ElemTy) (cc : Cond) (k : Fin 4) (a b : RowSpec) (s : State) : Out :=
  match ty.float? with
  | none => .next s
  | some f =>
    maskOp (.tcmp g ty cc k a b) g 3 [a, b] k (fun t =>
      let la := t.rowSrc ty.width a
      let lb := t.rowSrc ty.width b
      (laneMask ty fun j => floatCond cc (fread f t la j) (fread f t lb j),
        flagIf ((List.range ty.count).any fun j =>
          (fread f t la j).isSignalling || (fread f t lb j).isSignalling) fInvalid)) s

/-- tsel (R163): whole lanes of two rows by a mask. -/
def execTsel (g : TGuard) (k : Fin 4) (d a b : RowSpec) (s : State) : Out :=
  rowOp (.tsel g k d a b) g 3 .i32 false 64 [a, b] d (fun t =>
    let la := t.rowSrc 32 a
    let lb := t.rowSrc 32 b
    fun j _ => (if bitOf (t.mask k) j then la.getD j 0 else lb.getD j 0, 0)) s

/-! ## Conversion (R166) -/

def execTcvt (g : TGuard) (ty src : ElemTy) (rnd : Rnd) (d a : RowSpec) (s : State) : Out :=
  rowOp (.tcvt g ty src rnd d a) g 4 ty (turns (s.t.rmode rnd)) (min src.count ty.count) [a] d (fun t =>
    let la := t.rowSrc src.width a
    fun j st => convert src ty t.ftz (t.rmode rnd) st (la.getD j 0)) s

/-! ## Integer arithmetic (R164, R165) -/

/-- An integer syllable on the elements of a, b and the destination, as T reads them. -/
def intOp (i : Instr) (g : TGuard) (ty : ElemTy) (d a b : RowSpec) (op : Int → Int → Int → Int × Flags)
    (s : State) : Out :=
  rowOp i g 2 ty false ty.count [a, b] d (fun t =>
    let la := t.rowSrc ty.width a
    let lb := t.rowSrc ty.width b
    let ld := t.rowSrc ty.width d
    fun j _ =>
      let r := op (ty.int (la.getD j 0)) (ty.int (lb.getD j 0)) (ty.int (ld.getD j 0))
      (lowBits ty.width r.1, r.2)) s

/-- A saturating result with its flag. -/
def saturate (ty : ElemTy) (v : Int) : Int × Flags :=
  let c := satInt v ty.lo ty.hi
  (c, flagIf (c != v) fSaturated)

def execIadd (g : TGuard) (ty : ElemTy) (d a b : RowSpec) (s : State) : Out :=
  intOp (.iadd g ty d a b) g ty d a b (fun x y _ => (x + y, 0)) s

def execIsub (g : TGuard) (ty : ElemTy) (d a b : RowSpec) (s : State) : Out :=
  intOp (.isub g ty d a b) g ty d a b (fun x y _ => (x - y, 0)) s

def execImul (g : TGuard) (ty : ElemTy) (d a b : RowSpec) (s : State) : Out :=
  intOp (.imul g ty d a b) g ty d a b (fun x y _ => (x * y, 0)) s

def execImac (g : TGuard) (ty : ElemTy) (d a b : RowSpec) (s : State) : Out :=
  intOp (.imac g ty d a b) g ty d a b (fun x y z => (z + x * y, 0)) s

def execIadds (g : TGuard) (ty : ElemTy) (d a b : RowSpec) (s : State) : Out :=
  intOp (.iadds g ty d a b) g ty d a b (fun x y _ => saturate ty (x + y)) s

def execIsubs (g : TGuard) (ty : ElemTy) (d a b : RowSpec) (s : State) : Out :=
  intOp (.isubs g ty d a b) g ty d a b (fun x y _ => saturate ty (x - y)) s

def execImin (g : TGuard) (ty : ElemTy) (d a b : RowSpec) (s : State) : Out :=
  intOp (.imin g ty d a b) g ty d a b (fun x y _ => (min x y, 0)) s

def execImax (g : TGuard) (ty : ElemTy) (d a b : RowSpec) (s : State) : Out :=
  intOp (.imax g ty d a b) g ty d a b (fun x y _ => (max x y, 0)) s

/-- A syllable on bit patterns of width w. -/
def bitsOp (i : Instr) (g : TGuard) (ty : ElemTy) (d a b : RowSpec) (op : Nat → Nat → Nat) (s : State) : Out :=
  rowOp i g 2 ty false ty.count [a, b] d (fun t =>
    let la := t.rowSrc ty.width a
    let lb := t.rowSrc ty.width b
    fun j _ => (op (la.getD j 0) (lb.getD j 0), 0)) s

def execIand (g : TGuard) (d a b : RowSpec) (s : State) : Out :=
  bitsOp (.iand g d a b) g .i32 d a b (fun x y => x &&& y) s

def execIor (g : TGuard) (d a b : RowSpec) (s : State) : Out :=
  bitsOp (.ior g d a b) g .i32 d a b (fun x y => x ||| y) s

def execIxor (g : TGuard) (d a b : RowSpec) (s : State) : Out :=
  bitsOp (.ixor g d a b) g .i32 d a b (fun x y => x ^^^ y) s

def execIshl (g : TGuard) (ty : ElemTy) (d a b : RowSpec) (s : State) : Out :=
  bitsOp (.ishl g ty d a b) g ty d a b (fun x n => if n < ty.width then x * 2 ^ n % 2 ^ ty.width else 0) s

def execIshr (g : TGuard) (ty : ElemTy) (d a b : RowSpec) (s : State) : Out :=
  bitsOp (.ishr g ty d a b) g ty d a b (fun x n => if n < ty.width then x / 2 ^ n else 0) s

def execIsar (g : TGuard) (ty : ElemTy) (d a b : RowSpec) (s : State) : Out :=
  bitsOp (.isar g ty d a b) g ty d a b
    (fun x n => lowBits ty.width (sx ty.width x / 2 ^ min n (ty.width - 1))) s

/-- The conditions of icmp: lt and ge as T reads the elements, ltu and geu on the patterns (R165). -/
def intCond (cc : Cond) (ty : ElemTy) (x y : Nat) : Bool :=
  match cc with
  | .eq => x = y
  | .ne => x ≠ y
  | .lt => ty.int x < ty.int y
  | .ge => ty.int y ≤ ty.int x
  | .ltu => x < y
  | .geu => y ≤ x

def execIcmp (g : TGuard) (ty : ElemTy) (cc : Cond) (k : Fin 4) (a b : RowSpec) (s : State) : Out :=
  maskOp (.icmp g ty cc k a b) g 2 [a, b] k (fun t =>
    let la := t.rowSrc ty.width a
    let lb := t.rowSrc ty.width b
    (laneMask ty fun j => intCond cc ty (la.getD j 0) (lb.getD j 0), 0)) s

/-! ## Movement (R167) -/

/-- A movement syllable: lane k of the result from the lanes of the sources. -/
def moveOp (i : Instr) (g : TGuard) (cls : Nat) (d : RowSpec) (srcs : List RowSpec)
    (op : (Nat → Nat → Nat) → Nat → Nat) (s : State) : Out :=
  rowOp i g cls .i32 false 64 srcs d (fun t =>
    let ls := srcs.map (t.rowSrc 32)
    fun k _ => (op (fun n j => (ls.getD n []).getD j 0) k, 0)) s

def execTmov (g : TGuard) (d a : RowSpec) (s : State) : Out :=
  moveOp (.tmov g d a) g 2 d [a] (fun e k => e 0 k) s

def execTzero (g : TGuard) (d : RowSpec) (s : State) : Out :=
  moveOp (.tzero g d) g 2 d [] (fun _ _ => 0) s

def execTiota (g : TGuard) (d : RowSpec) (s : State) : Out :=
  moveOp (.tiota g d) g 2 d [] (fun _ k => k) s

def execTperm (g : TGuard) (d a x : RowSpec) (s : State) : Out :=
  moveOp (.tperm g d a x) g 4 d [a, x] (fun e k => e 0 (e 1 k % 64)) s

def execTsl (g : TGuard) (d a : RowSpec) (n : BitVec 6) (s : State) : Out :=
  moveOp (.tsl g d a n) g 4 d [a] (fun e k => if k + n.toNat ≤ 63 then e 0 (k + n.toNat) else 0) s

/-! ## Reduction (R63, R168) -/

/-- One level of the fixed tree: the sums of the pairs, the flags, and lane 0's LFSR after its turns. -/
def treeLevel (f : FloatFmt) (ftz : Bool) (mode : RMode) :
    List Nat → Flags → BitVec 32 → List Nat × Flags × BitVec 32
  | x :: y :: rest, fl, st =>
    let r := (f.read ftz x).add (f.read ftz y)
    let v := f.round ftz mode st r.1
    let t := treeLevel f ftz mode rest (fl ||| r.2 ||| v.2) (if turns mode then lfsrStep st else st)
    (v.1 :: t.1, t.2)
  | l, fl, st => (l, fl, st)

/-- tree_sum over at most 2^k elements. -/
def treeSum (f : FloatFmt) (ftz : Bool) (mode : RMode) : Nat → List Nat → Flags → BitVec 32 → Nat × Flags × BitVec 32
  | 0, l, fl, st => (l.headD 0, fl, st)
  | k + 1, l, fl, st =>
    let r := treeLevel f ftz mode l fl st
    treeSum f ftz mode k r.1 r.2.1 r.2.2

/-- tred (R168): the destination row is written whole, element 0 the result. -/
def execTred (g : TGuard) (ty : ElemTy) (rnd : Rnd) (d a : RowSpec) (s : State) : Out :=
  syllable (.tred g ty rnd d a) (s.t.tguardOn g) s fun s => s.onT fun t =>
    match t.rowAt d, t.rowsOk [a] with
    | some dd, true =>
      let pick (z : Nat) : List Nat := (t.rowSrc ty.width a).zipIdx.map fun x =>
        if bitOf (t.tlanes g) (ty.lane x.2) then x.1 else z
      match ty.float? with
      | some f =>
        let mode := t.rmode rnd
        match if turns mode then t.laneDenied [0] else none with
        | some r => t.fail 2 0x0C (BitVec.ofNat 64 r)
        | none =>
          let r := treeSum f t.ftz mode 8 (pick (f.signBit true)) 0 (t.lfsrOf 0)
          let t := if turns mode then t.setLfsr 0 r.2.2 else t
          t.rowResult 4 dd (BitVec.ofNat 2048 r.1) r.2.1
      | none =>
        t.rowResult 4 dd (BitVec.ofNat 2048 ((pick 0).foldl (· + ·) 0 % 2 ^ ty.width)) 0
    | _, _ => t.fail 2 0x02 0

/-! ## Lanes and masks (R169, R170) -/

def execTmvs (g : TGuard) (ty : ElemTy) (d : SReg) (a : RowSpec) (lane : BitVec 6) (s : State) : Out :=
  laneScalarOp (.tmvs g ty d a lane) g 4 [a] d (fun t =>
    if ty = .i64 then BitVec.ofNat 64 ((t.rowSrc 64 a).getD (lane.toNat / 2) 0)
    else BitVec.ofInt 64 (sx 32 ((t.rowSrc 32 a).getD lane.toNat 0))) s

def execMkand (g : TGuard) (k l m : Fin 4) (s : State) : Out :=
  maskOp (.mkand g k l m) g 2 [] k (fun t => (t.mask l &&& t.mask m, 0)) s

def execMkor (g : TGuard) (k l m : Fin 4) (s : State) : Out :=
  maskOp (.mkor g k l m) g 2 [] k (fun t => (t.mask l ||| t.mask m, 0)) s

def execMknot (g : TGuard) (k l : Fin 4) (s : State) : Out :=
  maskOp (.mknot g k l) g 2 [] k (fun t => (~~~t.mask l, 0)) s

def execMkpop (g : TGuard) (d : SReg) (l : Fin 4) (s : State) : Out :=
  laneScalarOp (.mkpop g d l) g 2 [] d (fun t => BitVec.ofNat 64 (popcount (t.mask l))) s

def execMkset (g : TGuard) (k : Fin 4) (a : SSrc) (s : State) : Out :=
  maskOp (.mkset g k a) g 2 [] k (fun t => (t.src a, 0)) s

end Sys2Proof.Machine
end

