-- ==== Sys2Proof/Machine/Catalogue.lean ====
section
/-! DEFINITION. The substitution catalogue (10 R228, R235 to R239, 11 R242): each entry's listing, the bytes that a
routine must equal (R227), and a native unit as its listing run group by group (R230). -/

namespace Sys2Proof.Machine

/-- A catalogue entry: the groups before its loop (the loop's own group last), the loop body, the groups after, its
declared latencies, and the contract bytes that R227 compares. -/
structure Listing where
  pre : List (List Instr)
  body : List (List Instr)
  post : List (List Instr)
  lat : List Nat
  contract : List Byte
  deriving DecidableEq, Repr

namespace Listing

/-- The syllables of a group, the stop bit on the last emitted (R102). -/
def groupBytes (g : List Instr) : List Word :=
  match (g.flatMap encode).reverse with
  | [] => []
  | w :: ws => (withStop w :: ws).reverse

/-- The body syllables of a listing. -/
def words (l : Listing) : List Word := (l.pre ++ l.body ++ l.post).flatMap groupBytes

def size (b : List (List Instr)) : Nat := (b.flatMap groupBytes).length

end Listing

/-! ## Contract bytes (R294, R295) -/

/-- A clause record of 64 bytes: its kind, and bytes placed at offsets. -/
def clauseBytes (kind : Nat) (l : List (Nat × Nat)) : List Byte :=
  (List.range 64).map fun k =>
    if k = 0 then BitVec.ofNat 8 kind
    else match l.find? fun p => p.1 = k with
      | some p => BitVec.ofNat 8 p.2
      | none => 0

/-- Bytes 0x0C to 0x13 of an entry: parameter mask, handover level 0, 64 cycles. -/
def entryBytes (mask : Nat) : List Byte := [BitVec.ofNat 8 mask, 0, 0, 0, 64, 0, 0, 0]

/-- The contract of rcp, rsqrt, exp2 and dot4: rows h0 to h3 and four flags. -/
def rowContract : List Byte :=
  entryBytes 0 ++ clauseBytes 2 [(40, 0xF)] ++ clauseBytes 5 [(8, 0xF)]

/-- The contract of pmm.blk: acc0, two scratch ranges, inexact. -/
def pmmContract : List Byte :=
  entryBytes 0x1F ++ clauseBytes 3 [(8, 1)] ++
    clauseBytes 4 [(8, 0x10), (36, 0x12), (37, 0x13), (38, 0x22)] ++
    clauseBytes 4 [(8, 0x11), (36, 0x12), (37, 0x14), (38, 0x22)] ++ clauseBytes 5 [(8, 8)]

/-! ## The listings -/

def hRow (n : Fin 4) : RowSpec := .h n
def sRow (n : Fin 32) : RowSpec := .bcast (.reg (.s n))
def cRow (c : BitVec 6) : RowSpec := .bcast (.const c)
def liS (sl : Slot) (n : Fin 32) (v : Nat) : Instr := .li sl none (.reg (.s n)) (BitVec.ofNat 64 v)
def movS (sl : Slot) (n m : Fin 32) : Instr := .mov sl none (.reg (.s n)) (.reg (.s m))
def addS (sl : Slot) (n m : Fin 32) : Instr := .add sl none (.reg (.s n)) (.reg (.s n)) (.reg (.s m))
def loopS (n : Fin 32) (disp : Nat) : Instr := .loop none (.reg (.s n)) (BitVec.ofNat 32 disp)
def fma (d a b : RowSpec) : Instr := .tfma .none .f32 .rne d a b
def unitLat : List Nat := List.replicate 8 1

/-- rcp.f32 (R237). -/
def rcpListing : Listing :=
  { pre := [[liS .sa 16 0x7EF311C3, liS .sb 17 0x3F800000, .tneg .none .f32 (hRow 2) (hRow 0)],
            [.isub .none .i32 (hRow 1) (sRow 16) (hRow 0), liS .sa 18 3],
            [loopS 18 3]],
    body := [[.tmov .none (hRow 3) (sRow 17)],
             [fma (hRow 3) (hRow 2) (hRow 1)],
             [fma (hRow 1) (hRow 1) (hRow 3)]],
    post := [[.rret none]], lat := unitLat, contract := rowContract }

/-- rsqrt.f32 (R238). -/
def rsqrtListing : Listing :=
  { pre := [[liS .sa 16 0x5F000000, liS .sb 17 0xBF000000, .ishr .none .i32 (hRow 1) (hRow 0) (cRow 1)],
            [liS .sa 20 0x3F800000, liS .sb 18 0x3FC00000],
            [.iand .none (hRow 1) (hRow 1) (sRow 20), liS .sa 19 6],
            [.isub .none .i32 (hRow 1) (sRow 16) (hRow 1)],
            [.tmul .none .f32 .rne (hRow 2) (hRow 0) (sRow 17)],
            [loopS 19 4]],
    body := [[.tmov .none (hRow 3) (sRow 18)],
             [.tmul .none .f32 .rne .yt (hRow 1) (hRow 1)],
             [fma (hRow 3) (hRow 2) .yt],
             [.tmul .none .f32 .rne (hRow 1) (hRow 1) (hRow 3)]],
    post := [[.rret none]], lat := unitLat, contract := rowContract }

/-- exp2.f32 (R239). -/
def exp2Listing : Listing :=
  { pre := [[liS .sa 16 0xC2FC0000, liS .sb 17 0x42FE0000],
            [.tmax .none .f32 (hRow 1) (hRow 0) (sRow 16), liS .sa 18 0x4B400000],
            [.tmin .none .f32 (hRow 1) (hRow 1) (sRow 17), liS .sa 19 0x3AAEC3FF],
            [.tadd .none .f32 .rne (hRow 2) (hRow 1) (sRow 18), liS .sa 20 0x3C1D955B],
            [.tsub .none .f32 .rne .yt (hRow 2) (sRow 18), liS .sa 21 0x3D635847],
            [.tsub .none .f32 .rne (hRow 1) (hRow 1) .yt, liS .sa 22 0x3E75FDF0],
            [.isub .none .i32 (hRow 2) (hRow 2) (sRow 18), liS .sa 23 0x3F317218],
            [.ishl .none .i32 (hRow 2) (hRow 2) (cRow 23), liS .sa 24 0x3F800000],
            [.tmov .none (hRow 3) (sRow 19)],
            [.tmov .none (hRow 0) (sRow 20)],
            [fma (hRow 0) (hRow 3) (hRow 1)],
            [.tmov .none (hRow 3) (sRow 21)],
            [fma (hRow 3) (hRow 0) (hRow 1)],
            [.tmov .none (hRow 0) (sRow 22)],
            [fma (hRow 0) (hRow 3) (hRow 1)],
            [.tmov .none (hRow 3) (sRow 23)],
            [fma (hRow 3) (hRow 0) (hRow 1)],
            [.tmov .none (hRow 0) (sRow 24)],
            [fma (hRow 0) (hRow 3) (hRow 1)],
            [.iadd .none .i32 (hRow 1) (hRow 0) (hRow 2)],
            [.rret none]],
    body := [], post := [], lat := unitLat, contract := rowContract }

/-- dot4.bf16 (R242). -/
def dot4Listing : Listing :=
  let next : List (List Instr) :=
    [[.iadd .none .i32 (hRow 3) (hRow 3) (cRow 1)],
     [.tperm .none (hRow 1) (hRow 2) (hRow 3)],
     [.tadd .none .f32 .rne (hRow 0) (hRow 0) (hRow 1)]]
  { pre := [[.tcvt .none .f32 .bf16 .rne (hRow 2) (hRow 0)],
            [.tcvt .none .f32 .bf16 .rne (hRow 3) (hRow 1)],
            [.tmul .none .f32 .rne (hRow 2) (hRow 2) (hRow 3)],
            [.tiota .none (hRow 3)],
            [.ishl .none .i32 (hRow 3) (hRow 3) (cRow 2)],
            [.tperm .none (hRow 0) (hRow 2) (hRow 3)]] ++ next ++ next ++ next ++
           [[.tsl .none (hRow 2) (hRow 0) 48, .rret none]],
    body := [], post := [], lat := unitLat, contract := rowContract }

/-- The plane product of pmm.blk for one row (R235). -/
def pmmRow (r : Fin 32) (a b : Fin 32) : Instr :=
  .ppac none 0 r (.reg (.s a)) (.reg (.s b)) 0 0 6 7 r

/-- pmm.blk (R235). -/
def pmmListing : Listing :=
  { pre := [[loopS 26 36]],
    body := (List.finRange 32).map fun r =>
      if r = 0 then [pmmRow r 24 25, movS .sa 20 24, movS .sb 21 25]
      else if r = 16 then [pmmRow r 20 21, addS .sa 24 27, addS .sb 25 28]
      else if r < 16 then [pmmRow r 24 25]
      else [pmmRow r 20 21],
    post := [[.rret none]], lat := defaultLat, contract := pmmContract }

def listing : Native → Listing
  | .pmmBlk => pmmListing
  | .dot4 => dot4Listing
  | .rcp => rcpListing
  | .rsqrt => rsqrtListing
  | .exp2 => exp2Listing

/-- The catalogue entry whose bytes a routine equals (R227). -/
def catalogueMatch (body : List Word) (lat : List Nat) (contract : List Byte) : Option Native :=
  ([.pmmBlk, .dot4, .rcp, .rsqrt, .exp2] : List Native).find? fun u =>
    (listing u).lat = lat && (listing u).contract = contract && (listing u).words = body

/-! ## A native unit as its definition (R230, R231) -/

/-- The meaning of a syllable that the listings hold; the loop and rret groups are the unit's own. -/
def unitSyllable (i : Instr) (s : State) : Out :=
  match i with
  | .li sl g d v => execLi sl g d v s
  | .mov sl g d a => execMov sl g d a s
  | .add sl g d a b => execAdd sl g d a b s
  | .ppac g acc r a b ia ib fx fy ra => execPpac g acc r a b ia ib fx fy ra s
  | .tneg g ty d a => execTneg g ty d a s
  | .isub g ty d a b => execIsub g ty d a b s
  | .iadd g ty d a b => execIadd g ty d a b s
  | .iand g d a b => execIand g d a b s
  | .ishl g ty d a b => execIshl g ty d a b s
  | .ishr g ty d a b => execIshr g ty d a b s
  | .tmov g d a => execTmov g d a s
  | .tfma g ty r d a b => execTfma g ty r d a b s
  | .tmul g ty r d a b => execTmul g ty r d a b s
  | .tadd g ty r d a b => execTadd g ty r d a b s
  | .tsub g ty r d a b => execTsub g ty r d a b s
  | .tmax g ty d a b => execTmax g ty d a b s
  | .tmin g ty d a b => execTmin g ty d a b s
  | .tcvt g ty f r d a => execTcvt g ty f r d a s
  | .tiota g d => execTiota g d s
  | .tperm g d a x => execTperm g d a x s
  | .tsl g d a n => execTsl g d a n s
  | _ => .next s

namespace State

/-- One core cycle in which a group of a listing issues; nothing where one of its syllables traps. -/
def unitGroup (s : State) (g : List Instr) : Option State :=
  let s := s.onT fun t => { t.land with pipe.grp := Group.idle }
  let r : Option State := g.foldl (fun o i => o.bind fun s =>
    match unitSyllable i s with
    | .next s => some s
    | _ => none) (some s)
  r.bind fun s =>
    if s.t.pipe.grp.trap.isNone && s.t.pipe.grp.back.isNone then some (s.onT fun t => { t with r.lcycle := t.r.lcycle + 1 }) else none

def unitGroups (s : State) (b : List (List Instr)) : Option State :=
  b.foldl (fun o g => o.bind fun s => s.unitGroup g) (some s)

/-- The loop index after an iteration (R141). -/
def unitStep (s : State) : State :=
  s.onT fun t => { t with r.b.loops := t.r.b.loops.map fun e => { e with idx := e.idx + 1 } }

/-- At most n iterations of a loop body: the state at the last boundary reached, and how many remain (R231). -/
def unitIters (b : List (List Instr)) : Nat → State → State × Nat
  | 0, s => (s, 0)
  | n + 1, s =>
    match s.unitGroups b with
    | some s' => unitIters b n s'.unitStep
    | none => (s, n + 1)

end State

/-- The number of iterations of a listing's loop in the called bank; 2^32 and more trap at the loop (R140). -/
def unitCount (u : Native) (t : CoreTask) : Nat :=
  match u with
  | .pmmBlk => (t.sreg (.s 26)).toNat
  | .rcp => 3
  | .rsqrt => 6
  | _ => 0

namespace CoreTask

/-- Accumulator tile 0 of one register set in the place of another's: its entries stand first. -/
def tileZero (from_ to_ : FMap Word) : FMap Word := from_.filter (·.1 < 1024) ++ to_.filter (1024 ≤ ·.1)

/-- A result of an asynchronous call's caller as its unit knows it: what it writes beside the footprint is the caller's (R231). -/
def onlyFoot (p : Pend) : Pend :=
  { p with flags := 0, record := 0, eff := match p.eff with | .row l d _ m v => .row l d false m v | e => e }

/-- Whether the unit of an asynchronous call needs a result of its caller: one to its footprint, or an accst into its ranges (R180,
R230). -/
def unitNeeds (c : NativeCall) (e : Eff) : Bool :=
  footEff c.unit e || match e with | .accst .. | .planeBytes .. => true | _ => false

/-- Whether a load writes a footprint row (R72). -/
def footLoad (c : NativeCall) (l : Load) : Bool := footEff c.unit (.load l.req l.vals)

/-- The routine level of a native call as its definition would enter it (R224, R230, R243): the registers, the scratchpad, the results
in flight and the loads of the call. A load that has been answered since is answered at the entry, which the definition would have
waited for. A synchronous call is its caller's own time; an asynchronous one has of its caller's what it needs and its captured control
registers. -/
def unitEntry (t : CoreTask) (c : NativeCall) (lat : List Nat) : CoreTask :=
  let sync := c.ctr.isNone
  let fr : Frame := { idx := c.idx, ret := 0, bank := c.regs.b, lat := t.code.lat, async := c.ctr, ranges := c.ranges,
                      saved := none, flags := c.flags, back := none }
  { t with r := { c.regs with
             frames := fr :: c.regs.frames, b := freshBank fun k => c.args.getD k 0, lcycle := 0,
             fcr := if sync then c.regs.fcr else c.fcr, fm := if sync then c.regs.fm else c.fm,
             fsr := if sync then c.regs.fsr else 0 },
           lm := { c.lm with bad := t.lm.bad },
           code.lat := lat, eng.natives := [], pipe.hold := 0, pipe.waits := [],
           pipe.loads := (if sync then c.loads else c.loads.filter (footLoad c)).map fun (l : Load) =>
             { l with arrived := l.arrived || !t.pipe.loads.any fun o => o.ord = l.ord && !o.arrived },
           pipe.pend := if sync then c.pend else (c.pend.filter fun (p : Pend) => unitNeeds c p.eff).map onlyFoot }.land

/-- Lands results until none is in flight; `fuel` bounds the latencies. -/
def drain : Nat → CoreTask → CoreTask
  | 0, t => t
  | n + 1, t => if t.pipe.pend.isEmpty then t else drain n t.land

end CoreTask

end Sys2Proof.Machine
end

