-- ==== Sys2Proof/Machine/Agents.lean ====
section
/-! DEFINITION. The memory accesses of agents outside the cores (the executive, the loader, the trace port, the
links' ports) and what a link sends (13 R264, 21 R335 to R337). -/

namespace Sys2Proof.Machine

namespace State

/-- The physical address of a byte of a context for an agent outside the cores. -/
def agentPa (s : State) (x va : Nat) (need : Need) : Option Nat :=
  if 2 ^ 24 ≤ va ∧ va < 2 ^ 48 then
    match s.walk x va need with
    | .ok l => some (l.pa + va % 2 ^ l.size)
    | .error _ => none
  else none

/-- The bytes of a context's range as an agent reads them: none where a page is missing or a sector uncorrectable. -/
def agentRead (s : State) (x va n : Nat) : Option (List Byte) :=
  (sectorPieces (n / 32 + 2) va (List.replicate n (0 : Byte))).foldl (fun r p =>
    match r, s.agentPa x p.1 .r with
    | some bs, some pa =>
      if s.physBad pa then none else some (bs ++ s.physBytes (s.keyOf x) pa p.2.length)
    | _, _ => none) (some [])

/-- Whether every page of a range permits an access. -/
def mapped (s : State) (x va n : Nat) (need : Need) : Bool :=
  (sectorPieces (n / 32 + 2) va (List.replicate n (0 : Byte))).all fun p => (s.agentPa x p.1 need).isSome

/-- A write of an agent at one timestamp above every earlier access of the bytes, and above the clock the agents share
(R264). It is dropped as a whole where a page is missing or forbids it. -/
def agentWrite (s : State) (x va : Nat) (bs : List Byte) : State :=
  let pieces := sectorPieces (bs.length / 32 + 2) va bs
  if s.mapped x va bs.length .w then
    let ts := pieces.foldl (fun m p =>
      match s.agentPa x p.1 .w with
      | some pa => let h := s.home (pa / 128); max m (max h.1 (h.2 + 1))
      | none => m) s.net.clock
    let s := pieces.foldl (fun s p =>
      match s.agentPa x p.1 .w with
      | some pa => (s.setHome (pa / 128) (ts, ts)).physWrite (s.keyOf x) pa p.2
      | none => s) s
    { s with net.clock := ts }
  else s

/-- A little-endian word of n bytes as an agent reads it. -/
def agentNat (s : State) (x va n : Nat) : Option Nat := (s.agentRead x va n).map leNat

end State

/-! ## What a link sends (R335 to R337) -/

namespace Link

/-- Whether a link carries traffic (R338). -/
def live (k : Link) : Bool := k.st = .up || k.st = .degraded

end Link

/-- The bytes of an item on the wire: a message's header and data, a control record, or a time message, whose octets IEEE 1588
gives (R337). -/
def itemBytes : LinkOut → List Byte
  | .msg kind m => leBytes 6 m.va.toNat ++ leBytes 1 m.ctx.val ++ leBytes 1 (kind + 16 * m.op.val) ++ leBytes 2 m.data.length ++
      leBytes 2 m.tag.toNat ++ leBytes 4 m.seq.toNat ++ m.data
  | .nak seq => leBytes 8 (1 + seq.toNat * 2 ^ 8)
  | .accept flags refused dup seq =>
    leBytes 8 (2 + flags.toNat * 2 ^ 8 + refused.toNat * 2 ^ 14 + dup.toNat * 2 ^ 15 + seq.toNat * 2 ^ 32)
  | .credit n => leBytes 8 (3 + n % 2 ^ 16 * 2 ^ 8)
  | .train win lanes next clock =>
    leBytes 8 (4 + win % 16 * 2 ^ 8 + lanes.toNat * 2 ^ 12 + next.toNat * 2 ^ 32) ++ leBytes 8 clock.toNat
  | .gate on => leBytes 8 (5 + on.toNat * 2 ^ 8)
  | .wake => leBytes 8 6
  | .time kind fields => Config.timeOctets kind fields
  | .pad => List.replicate 8 0

/-- The type of the flits that carry an item (R335). -/
def flitType : LinkOut → Nat
  | .msg _ _ | .pad => 1
  | .time _ _ => 2
  | _ => 3

/-- The room an item takes in the payload of its flits: messages and records start at 8-byte boundaries, and a time message has
a flit of its own (R337). -/
def itemRoom : LinkOut → Nat
  | .msg _ m => (16 + m.data.length + 7) / 8 * 8
  | .train _ _ _ _ => 16
  | .time _ _ => 248
  | _ => 8

namespace Link

/-- Whether a link takes the flits that arrive (R336, R338). -/
def hears (k : Link) : Bool := k.live && !k.discard

/-- The length of a link's window in nanoseconds (R343). -/
def windowNs (k : Link) : Nat := 256 * 2 ^ k.win

/-- Where an item of a type and room goes at a time in cycles: its flit, its place in the payload, and how many flits it adds. A
message runs on from the last one's end, a record joins the last control flit, while that flit has not begun to leave; the rest
of a flit is padding, which after 240 bytes takes one more flit (R337). -/
def place (k : Link) (now typ room : Nat) : BitVec 12 × Nat × Nat :=
  let used := if typ = 1 then k.data else k.ctl
  if k.tail = typ ∧ typ ≠ 2 ∧ used < 248 ∧ (typ = 1 ∨ used + room ≤ 248) ∧ 100 * now + 512 ≤ k.freeAt then
    (k.txFlit - 1, used, (used + room + 247) / 248 - 1)
  else
    let pad := if typ = 1 ∧ k.data = 240 then 1 else 0
    (k.txFlit + BitVec.ofNat 12 pad, 0, pad + (room + 247) / 248)

/-- The flits sent and not acknowledged. -/
def outstanding (k : Link) : Nat :=
  match k.unacked with
  | [] => 0
  | e :: _ => (k.txFlit - e.flit).toNat

/-- The last flit of an item. -/
def lastFlit (e : Sent) : BitVec 12 := e.flit + BitVec.ofNat 12 ((e.pos + itemRoom e.item - 1) / 248)

/-- Sends an item at a time in cycles and keeps it until its acknowledgement: what has a part in the last 128 flits. The padding
header that fills a data flit from byte 240 runs into a flit of its own. A flit takes 2.56 ns (R335 to R337). -/
def send (k : Link) (now : Nat) (o : LinkOut) : Link :=
  let typ := flitType o
  let p := k.place now typ (itemRoom o)
  let stop := (p.2.1 + itemRoom o - 1) % 248 + 1
  let tx := k.txFlit + BitVec.ofNat 12 p.2.2
  { k with
    txFlit := tx, tail := typ, data := if typ = 1 then stop else k.data, ctl := if typ = 3 then stop else k.ctl,
    freeAt := max k.freeAt (100 * now) + 512 * p.2.2,
    unacked := (k.unacked ++ (if p.1 = k.txFlit + 1 then [Sent.mk k.txFlit 0 .pad] else []) ++ [Sent.mk p.1 p.2.1 o]).filter
      fun e => (tx - lastFlit e).toNat ≤ 128 }

/-- The cumulative acknowledgement of a flit: everything that ends in it or before it has arrived (R335). -/
def acked (k : Link) (ack : BitVec 12) : Link :=
  { k with unacked := k.unacked.filter fun e => 2048 ≤ (ack - lastFlit e).toNat }

/-- A flit other than a data flit arrives, or one more record of the last control flit. -/
def heard (k : Link) : Link :=
  if k.joined then { k with joined := false } else { k with rxFlit := k.rxFlit + 1 }

/-- A message of a room arrives, in the flit where the last one ended and the next ones (R337). -/
def heardData (k : Link) (room : Nat) : Link :=
  let stop := k.rxData + room
  { k with rxFlit := k.rxFlit + BitVec.ofNat 12 ((stop + 247) / 248 - (k.rxData + 247) / 248), rxData := (stop - 1) % 248 + 1 }

/-- A padding message arrives: the rest of the flit in which its header ends carries nothing (R337). -/
def heardPadding (k : Link) : Link := { k.heardData 16 with rxData := 248 }

/-- A negative acknowledgement arrives: the flits from the first discarded one leave again, and count (R336, R343). -/
def resend (k : Link) (now : Nat) (seq : BitVec 12) : Link :=
  let n := (k.txFlit - seq).toNat
  if n ≤ 128 then
    { k with replay := k.replay + BitVec.ofNat 64 n, freeAt := max k.freeAt (100 * now) + 512 * n }
  else k

/-- The payload of a flit that the link keeps: what each of its items has in it, and zeros (R337). -/
def payload (k : Link) (n : BitVec 12) : List Byte :=
  (List.range 248).map fun j =>
    (k.unacked.findSome? fun e => do
      let i := 248 * (n - e.flit).toNat + j - e.pos
      if e.pos ≤ 248 * (n - e.flit).toNat + j then (itemBytes e.item)[i]? else none).getD 0

end Link

/-- One byte of the check of a flit (R335). -/
def crcByte (c : BitVec 32) (b : Byte) : BitVec 32 :=
  (List.range 8).foldl (fun c i =>
    let top := c.getLsbD 31 != b.getLsbD (7 - i)
    (c <<< 1) ^^^ (if top then 0x04C11DB7 else 0)) c

/-- CRC-32 over bytes (R335). -/
def crc32 (bs : List Byte) : BitVec 32 := bs.foldl crcByte 0xFFFFFFFF ^^^ 0xFFFFFFFF

/-- The 256 bytes of a flit that a link keeps, as it leaves: its sequence and type, the cumulative acknowledgement of the
partner's flits, its payload and its check (R335). An item that the link no longer keeps leaves the flit idle. -/
def Link.flit (k : Link) (n : BitVec 12) : List Byte :=
  let typ := (k.unacked.find? fun e => (n - e.flit).toNat ≤ (Link.lastFlit e - e.flit).toNat).elim 0 fun e => flitType e.item
  let body := leBytes 2 (n.toNat + typ * 2 ^ 12) ++ leBytes 2 (k.rxFlit - 1).toNat ++ k.payload n
  body ++ leBytes 4 (crc32 body).toNat

/-- A little-endian field of some bytes. -/
def byteField (bs : List Byte) (off n : Nat) : Nat := leNat ((bs.drop off).take n)

namespace State

def link (s : State) (l : Nat) : Link := mget Link.reset s.net.links l

def setLink (s : State) (l : Nat) (f : Link → Link) : State :=
  { s with net.links := mmod Link.reset s.net.links l f }

/-- The stored configuration block of a type (R35), the length of its payload and the payload. -/
def block (s : State) (n : Nat) : List Byte :=
  match mget [] s.md.flash.blocks n with
  | [] => Config.shippedBlock n
  | b => b

def blockLen (b : List Byte) : Nat := byteField b 0x10 4
def blockPayload (b : List Byte) : List Byte := (b.drop 0x20).take (blockLen b)

/-- The module's 1588 clock identity, of ID_DEVICE and the serial number of the identity block (R35, R339). -/
def clockId (s : State) : Word := Config.clockIdentity 0x768 ((blockPayload (s.block 1)).take 8)

/-- The device time at which the next flit that a link sends begins to leave, in nanoseconds (R5, R339; notes/assumptions 58). -/
def leaves (s : State) (k : Link) : Word := BitVec.ofInt 64 ((max k.freeAt (100 * s.now) / 200 : Nat) + s.timeOff)

/-- Sends a time message with a sequence of its own, the module's clock, the link and what else it says (R337, R339). -/
def sendTime (s : State) (l kind : Nat) (fields : List Word) : State :=
  s.setLink l fun k =>
    { k with timeSeq := k.timeSeq + 1 }.send s.now (.time kind (BitVec.ofNat 64 k.timeSeq :: s.clockId :: BitVec.ofNat 64 l :: fields))

/-- A Sync leaves with its timestamp (R337). -/
def sendSync (s : State) (l : Nat) : State := s.sendTime l 0 [s.leaves (s.link l)]

/-- The clock that the module announces: its own, or its master's, one step further (R339). -/
def ownClock (s : State) : Byte × Word × Word × BitVec 16 :=
  match s.net.grand, (s.link s.net.master).announce with
  | false, some (p, q, i, n) => (p, q, i, n + 1)
  | _, _ => (s.net.prio1, Config.clockQuality, s.clockId, 0)

/-- What the ports of the boundary clock send in a millisecond: each a Pdelay_Req; the others than the master's an Announce; and a
grandmaster a Sync (R339; notes/assumptions 58). -/
def timeDuties (s : State) : State :=
  (List.range 16).foldl (fun s l =>
    let due (kind : Nat) : Bool := (s.link l).live && Config.timeDue l kind (s.now / 2000000)
    let s := if due 3 then (s.sendTime l 3 []).setLink l fun k => { k with asked := some (s.leaves (s.link l)) } else s
    let c := s.ownClock
    let s := if due 2 && (s.net.grand || s.net.master != l) then s.sendTime l 2 [c.1.setWidth 64, c.2.1, c.2.2.1, c.2.2.2.setWidth 64]
      else s
    if due 0 && s.net.grand then s.sendSync l else s) s

/-- A gate record to every partner (R23, R337). -/
def advertise (s : State) (gated : Bool) : State :=
  (List.range 16).foldl (fun s l => if (s.link l).live then s.setLink l (·.send s.now (.gate gated)) else s) s

end State

end Sys2Proof.Machine
end

