-- ==== Sys2Proof/Machine/Trace.lean ====
section
/-! DEFINITION. The debug target and the trace and profile records (22 R351, R354, R355). -/

namespace Sys2Proof.Machine

namespace State

/-- Whether a task is the debug target (R350, R351). -/
def isTarget (s : State) (t : CoreTask) : Bool :=
  bitOf s.dbg.tgt 63 && t.id.launch != 0 && t.id.idx = s.dbg.tgt.toNat / 2 ^ 32 % 2 ^ 24 &&
    t.id.ctx = s.dbg.tgt.toNat / 2 ^ 24 % 64

/-- Writes the words of one record at the head of the circular buffer (R354). -/
def putTrace (s : State) (ws : List Nat) : State :=
  if s.dbg.trLen = 0 then s
  else
    let x := s.dbg.tgt.toNat / 2 ^ 24 % 64
    let s := ws.foldl (fun s w =>
      let s' := s.agentWrite x (s.dbg.trBase.toNat + s.dbg.trHead.toNat) (leBytes 4 w)
      { s' with dbg.trHead := BitVec.ofNat 32 ((s.dbg.trHead.toNat + 4) % s.dbg.trLen.toNat) }) s
    { s with dbg.trCount := s.dbg.trCount + 1 }

/-- The words of a sync record (R354). -/
def syncWords (s : State) (lost : Bool) : List Nat :=
  [2 ^ 31 + (if lost then 2 ^ 29 else 0), s.deviceTime % 2 ^ 32, s.deviceTime / 2 ^ 32 % 2 ^ 32]

/-- Writes one record; after every 4,096 of them comes a sync record (R354). -/
def putRecord (s : State) (ws : List Nat) : State :=
  let s := s.putTrace ws
  if s.dbg.trLen ≠ 0 ∧ s.dbg.trCount % 4096 = 0 then s.putTrace (s.syncWords false) else s

/-- Writes one record, unless the trace port is behind: it is dropped then. The next record written after a loss is a sync
record that says so (R354). When the port falls behind is an input (notes/assumptions 55). -/
def traceWords (s : State) (ws : List Nat) : State :=
  if s.dbg.trBehind then { s with dbg.trLost := true }
  else if s.dbg.trLost then ({ s with dbg.trLost := false }.putRecord (s.syncWords true)).putRecord ws
  else s.putRecord ws

/-- A sync record (R354); after a loss, the one that says so. -/
def traceSync (s : State) : State :=
  if s.dbg.trLost && !s.dbg.trBehind then { s with dbg.trLost := false }.putRecord (s.syncWords true)
  else s.traceWords (s.syncWords false)

/-- Whether the current task writes trace records. -/
def tracing (s : State) : Bool := bitOf s.dbg.trCtl 0 && s.isTarget s.t

/-- The records of one issued group of the target, `p` its pipeline before the issue: its classes in order, with the distance to the
group it issued last (R354). -/
def traceGroup (s : State) (p : Pipe) (start : Nat) (classes : List Nat) : State :=
  if !s.tracing then s
  else
    let gap := min 4095 (s.now - p.lastAt)
    let delta := (start + 2 ^ 14 - p.lastPc % 2 ^ 14) % 2 ^ 14
    classes.zipIdx.foldl (fun s c =>
      s.traceWords [c.1 * 2 ^ 27 + if c.2 = 0 then 2 ^ 26 + gap * 2 ^ 14 + delta else 0]) s

/-- The record of a stop of the target (R354). -/
def traceStop (s : State) : State :=
  if !s.tracing then s
  else
    let c := s.t.r.xcause.toNat
    s.traceWords [2 ^ 30 + c / 2 ^ 12 % 8 * 2 ^ 27 + c % 256 * 2 ^ 19 + c / 2 ^ 8 % 16 * 2 ^ 15 + c / 2 ^ 15 % 2 * 2 ^ 14 +
      s.t.r.xpc.toNat % 2 ^ 14, s.t.r.xmask.toNat % 256]

/-- The sync record of a release or a resume of the target (R354). -/
def traceStart (s : State) : State := if s.tracing then s.traceSync else s

/-- The cycles of the current core's native plane engine that a call of n chunks is charged with, class by class (R355): all since the
last charge, those before the call without command, one for each chunk counting (R235). How the rest fall to the other three classes
is timing, which the spec does not fix: free. -/
def planeCycles (s : State) (c : NativeCall) (n : Nat) : List Nat :=
  let free (k m : Nat) : Nat := leNat ((List.range 4).map fun i => Config.freeByte (s.now * 2 ^ 20 + 2 ^ 19 + 4 * k + i)) % (m + 1)
  let total := s.now - s.t.lm.planeMark
  let idle := min total (c.since - s.t.lm.planeMark)
  let comp := min n (total - idle)
  let rest := total - idle - comp
  let load := free 0 rest
  let wait := free 1 (rest - load)
  [comp, load, wait, rest - load - wait, idle]

/-- A native call completes or hands over after n chunks: the plane engine's cycles are charged to it, to its context's counters and
in the target's profile record, each at most its field's maximum; a call of the function unit has none (R355, R356). -/
def traceCall (s : State) (c : NativeCall) (n : Nat) : State :=
  let cyc := if c.unit = .pmmBlk then s.planeCycles c n else [0, 0, 0, 0, 0]
  let s := cyc.zipIdx.foldl (fun s k => s.count s.t.id.ctx (5 + k.2) k.1) s
  let s := if c.unit = .pmmBlk then s.onT fun t => { t with lm.planeMark := s.now } else s
  if bitOf s.dbg.trCtl 1 && s.isTarget s.t then
    let f (k : Nat) : Nat := min (2 ^ 16 - 1) (cyc.getD k 0)
    s.traceWords [3 * 2 ^ 30 + c.start % 2 ^ 14 * 2 ^ 16, min (2 ^ 32 - 1) (cyc.getD 0 0), f 1 + 2 ^ 16 * f 2, f 3 + 2 ^ 16 * f 4]
  else s

end State

end Sys2Proof.Machine
end

