-- ==== Sys2Proof/Machine/Native.lean ====
section
/-! DEFINITION. Native routine calls: completion and handover (10 R225, R230 to R233). -/

namespace Sys2Proof.Machine

namespace CoreTask

/-- Whether a call that was handed over is still running as its definition (R233). -/
def handedOver (t : CoreTask) : Bool := t.r.frames.any (·.saved.isSome)

/-- Whether a load that a unit's definition would wait for is outstanding (R72, R243). -/
def loadsLate (t : CoreTask) (c : NativeCall) : Bool := t.pipe.loads.any fun l => !l.arrived && footLoad c l

/-- The call that runs on the unit, once its own group waits for nothing else and every result issued before it, and every one of its
footprint, has landed. -/
def runningCall (t : CoreTask) : Option (NativeCall × Routine) :=
  if t.handedOver then none
  else match t.eng.natives with
    | c :: _ =>
      if t.loadsLate c || t.pipe.pend.any (fun p => p.ord < c.ord || footEff c.unit p.eff) ||
          (c.since = t.pipe.lastAt && t.pipe.waits.any (· ≠ .native)) then none
      else (t.routineOf c.idx).map fun r => (c, r)
    | [] => none

end CoreTask

/-- A write of fcr or fm, which is the caller's own across an asynchronous call's handover (R231). -/
def isOwnCtl : Eff → Bool
  | .fcr _ | .fm _ _ => true
  | _ => false

namespace State

/-- The state in which the unit of a call has run its listing up to an iteration boundary: n iterations at most; and
whether nothing stopped it there. -/
def unitRun (s : State) (c : NativeCall) (r : Routine) (n : Nat) : State × Bool :=
  let l := listing c.unit
  let s0 := { s with t := s.t.unitEntry c r.lat }
  if n = 0 ∨ unitCount c.unit s0.t < n then (s0, n = 0)
  else match s0.unitGroups l.pre with
    | none => (s0, false)
    | some s1 =>
      let first := r.base + Listing.size l.pre
      let last := first + Listing.size l.body.dropLast
      let s1 := s1.onT fun t =>
        { t with r.b.loops := [{ count := unitCount c.unit t, idx := 0, first, last }] }
      match unitIters l.body n s1 with
      | (s2, 0) => (s2, true)
      | (s2, k) => if k = n then (s0, false) else (s2, false)

/-- The state in which the unit has run the whole listing, its results landed: none where a group of it traps. -/
def unitWhole (s : State) (c : NativeCall) (r : Routine) : Option State :=
  let l := listing c.unit
  let n := unitCount c.unit (s.t.unitEntry c r.lat)
  let finish (s : State) : Option State := (s.unitGroups l.post).map fun s => s.onT fun t => t.drain 16
  if l.body.isEmpty then (State.unitGroups { s with t := s.t.unitEntry c r.lat } l.pre).bind finish
  else if n = 0 then
    ({ s with t := s.t.unitEntry c r.lat }.unitGroups l.pre).bind finish
  else if 2 ^ 32 ≤ n then none
  else match s.unitRun c r n with
    | (s1, true) => finish s1
    | _ => none

/-- Puts a result among others by its order of issue (R70). -/
def insertPend (p : Pend) : List Pend → List Pend
  | [] => [p]
  | q :: l => if p.ord < q.ord then p :: q :: l else q :: insertPend p l

/-- What a landed accst of the caller covers is put back as the definition at its handover still finds it (R231). -/
def unland (c : NativeCall) (t : CoreTask) (addr n : Nat) : CoreTask :=
  (List.range n).foldl (fun t i => t.putScratch (addr + i) (readByte c.lm.scratch (addr + i)) (mget 0 c.lm.tags ((addr + i) / 2048))) t

/-- The bytes that an accst writes. -/
def accstBytes : Eff → Option (Nat × Nat)
  | .accst _ _ n addr => some (addr, 256 * n)
  | .planeBytes addr bs => some (addr, bs.length)
  | _ => none

/-- The bytes of an accst that the definition has seen land, and the live task not yet, are written (R231). -/
def landFor (u t : CoreTask) : CoreTask :=
  { t with lm.plane := t.lm.plane ++ u.lm.plane.filter fun (w : PlaneWrite) => t.pipe.pend.any fun (o : Pend) => o.ord = w.ord }.closeCycle

/-- The results that the definition still has in flight, as the live task takes them over: an accst that has landed for its caller alone
is undone and in flight again, with its bytes when its tile may have changed since (R231). -/
def refly (c : NativeCall) (t : CoreTask) (l : List Pend) : CoreTask × List Pend :=
  l.foldl (fun (r : CoreTask × List Pend) p =>
    match if t.pipe.pend.any (fun o => o.ord = p.ord) then none else accstBytes p.eff with
    | some (addr, n) =>
      let eff := if c.ctr.isNone then p.eff else .planeBytes addr (readBytes t.lm.scratch addr n)
      (unland c r.1 addr n, r.2 ++ [{ p with eff }])
    | none => (r.1, r.2 ++ [p])) (t, [])

/-- A synchronous call's handover: the definition's whole state stands in the place of the task's, which has issued nothing meanwhile
(R231). -/
def takeWhole (c : NativeCall) (u t : CoreTask) : CoreTask :=
  let t0 := refly c (landFor u t) u.pipe.pend
  { t0.1 with
    r := { t.r with
      s := u.r.s, p := u.r.p, b := (match u.r.frames with | fr :: _ => fr.bank | [] => t.r.b), mks := u.r.mks, tiles := u.r.tiles,
      h := u.r.h, acc := u.r.acc, accExp := u.r.accExp, fm := u.r.fm, dreg := u.r.dreg, nreg := u.r.nreg, greg := u.r.greg, fcr := u.r.fcr,
      fsr := u.r.fsr ||| c.late },
    pipe.pend := t0.2,
    pipe.loads := u.pipe.loads.map fun (l : Load) =>
      (t.pipe.loads.find? fun (o : Load) => o.ord = l.ord).getD { l with arrived := true } }.settleLoads

/-- What is left of a caller's result to a footprint register beside it, in flight as before: yt and the flags (R231). -/
def besideFoot (p : Pend) : Pend :=
  { p with eff := match p.eff with | .row l _ true _ v => .row l .yt false allLanes v | _ => .row 64 .yt false 0 0 }

/-- An asynchronous call's handover: the definition's footprint and what it has in flight to it; the caller's other results stay
(R231). -/
def takeFoot (c : NativeCall) (u t : CoreTask) (lvl : Nat) : CoreTask :=
  let pmm := c.unit = .pmmBlk
  let gone := t.pipe.pend.filter fun p => CoreTask.footEff c.unit p.eff
  let mine := u.pipe.pend.map fun (p : Pend) => { p with eff := relevel u.level lvl p.eff }
  let mine := mine.map fun (p : Pend) =>
    if pmm then (match gone.find? fun o => o.ord = p.ord with | some o => { p with flags := o.flags, record := o.record } | none => p) else p
  let t0 := refly c (landFor u t) mine
  let flags := ((gone.filter fun o => pmm && !mine.any fun p => p.ord = o.ord).foldl CoreTask.landOne t).r.fsr
  let rest := (t.pipe.pend.filter fun p => !CoreTask.footEff c.unit p.eff && !isOwnCtl p.eff && !(mine.any fun (o : Pend) => o.ord = p.ord) &&
      !u.lm.plane.any fun (w : PlaneWrite) => w.ord = p.ord) ++
    if pmm then [] else gone.map besideFoot
  { t0.1 with
    r := { t.r with
      h := if pmm then t.r.h else u.r.h,
      acc := if pmm then CoreTask.tileZero u.r.acc t.r.acc else t.r.acc,
      accExp := if pmm then mset 0 t.r.accExp 0 (mget 0 u.r.accExp 0) else t.r.accExp,
      fcr := c.fcr, fm := c.fm, fsr := flags ||| u.r.fsr },
    pipe.pend := (rest ++ t0.2).foldl (fun l p => insertPend p l) [] }

/-- Installs the handover state of the running call after n iterations, or fewer when the unit could not reach that
boundary, as the active routine level (R231 to R233): at entry while a load that its definition waits for is outstanding, and
where its loop traps for its count (R140). `landed`: the results of the cycle in which the body's next group is to issue are visible
already. A caller that waits in its group returns to it with its done syllables suppressed. The engine's cycles are charged to the call
(R355). -/
def handOver (s : State) (n : Nat) (landed : Bool) : State :=
  match s.t.eng.natives with
  | [] => s
  | c :: _ =>
    match s.t.routineOf c.idx with
    | none => s
    | some r =>
      let whole := unitCount c.unit (s.t.unitEntry c r.lat)
      let n := if s.t.loadsLate c || 2 ^ 32 ≤ whole then 0 else min n (whole - 1)
      let u := (s.unitRun c r n).1.t
      let u := if landed then u.land else u
      let s' := s.onT fun t =>
        let sync := c.ctr.isNone
        let inGroup := !t.pipe.waits.isEmpty
        let mask : BitVec 8 := if inGroup && !sync then BitVec.ofNat 8 (t.doneMask t.waitMask).toNat else t.pipe.suppress
        let kept := if inGroup && !sync && bitOf mask 5 then some t.pipe.grp else t.pipe.kept
        let rest := if sync then t.pipe.waits.filter (· ≠ .native) else []
        let body := match u.r.b.loops with
          | e :: _ => e.first
          | [] => r.base
        let stopped := t.ctl.st = .faulted || t.ctl.st = .stopping
        let ret := if sync then (if inGroup then t.pipe.grp.next else t.r.pc)
          else if inGroup then t.pipe.grp.start else t.r.pc
        let back := if sync && inGroup then none else some (mask, t.pipe.recount || (inGroup && !sync), kept)
        let own := (t.pipe.pend.filter fun p => isOwnCtl p.eff).foldl (fun t p => (t.applyEff p.ord p.eff).1) t
        let saved := if sync then none else some (own.r.fcr, own.r.fm)
        let t := if sync then takeWhole c u t else takeFoot c u t (t.level + 1)
        let fr : Frame :=
          { idx := c.idx, ret, bank := t.r.b, lat := t.code.lat, async := c.ctr, ranges := c.ranges, saved, flags := c.flags, back }
        { t with
          r.frames := fr :: t.r.frames, r.b := u.r.b, r.lcycle := t.r.lcycle + u.r.lcycle,
          r.pc := if rest.isEmpty then body else t.r.pc,
          code.lat := r.lat,
          pipe.ord := max t.pipe.ord u.pipe.ord,
          pipe.waits := rest, pipe.grp := if rest.isEmpty then Group.idle else { t.pipe.grp with xfer := some body },
          pipe.suppress := 0, pipe.recount := false, pipe.kept := none,
          eng.natives := t.eng.natives.drop 1, ctl.st := if stopped then t.ctl.st else if rest.isEmpty then .running else .waiting }
      s'.traceCall c (match u.r.b.loops with | e :: _ => e.idx | [] => 0)

/-- The completion of the running call, or its handover where its definition traps (R225, R230, R232): its footprint alone is
written. -/
def completeCall (s : State) : State :=
  match s.t.runningCall with
  | none => s
  | some (c, r) =>
    let n := unitCount c.unit (s.t.unitEntry c r.lat)
    match s.unitWhole c r with
    | none => s.handOver n false
    | some u =>
      (s.onT fun t =>
        let pmm := c.unit = .pmmBlk
        let t := { t with
          r.h := if pmm then t.r.h else u.t.r.h,
          r.acc := if pmm then CoreTask.tileZero u.t.r.acc t.r.acc else t.r.acc,
          r.accExp := if pmm then mset 0 t.r.accExp 0 (mget 0 u.t.r.accExp 0) else t.r.accExp,
          r.fsr := if c.ctr.isNone then u.t.r.fsr ||| c.late else t.r.fsr ||| u.t.r.fsr, r.lcycle := t.r.lcycle + u.t.r.lcycle }
        let t := { t with eng.natives := (t.eng.natives.drop 1).map t.entering }
        match c.ctr with
        | some n => t.subCtr n 1
        | none => t).traceCall c n

end State

/-- NATIVE_CALL_COMPLETE (R225): the running call of a core completes. -/
def execNativeCallComplete (core : Nat) (s : State) : Out :=
  .next (s.atCore core fun s =>
    if !s.t.stands ∧ s.t.active then s.completeCall else s)

/-- NATIVE_HANDOVER (R231, R232): the running call of a core hands over after `iters` iterations, or at the last
boundary before a fault; a stopped task's call hands over before it is saved. In a freeze the unit stands still (R73). -/
def execNativeHandover (core iters : Nat) (s : State) : Out :=
  .next (s.atCore core fun s =>
    if s.t.handedOver ∨ s.t.stands then s else s.handOver iters !s.t.active)

end Sys2Proof.Machine
end

