-- ==== Sys2Proof/Machine/Loader.lean ====
section
/-! DEFINITION. Kernel images: reading, verification, the load report, relocation and the loading of a core (17_kernels
R293 to R303, 10 R220 to R222, R227, 18 R312). -/

namespace Sys2Proof.Machine

/-! ## Reading an image (R293 to R296) -/

def zeroField (bs : List Byte) (off n : Nat) : Bool := byteField bs off n = 0

/-- The syllables of some bytes, at most `n`. -/
def wordsOf : Nat → List Byte → List Word
  | 0, _ => []
  | n + 1, bs => if bs.isEmpty then [] else BitVec.ofNat 64 (leNat (bs.take 8)) :: wordsOf n (bs.drop 8)

/-- Eight latency classes of a 32-bit field. -/
def latField (v : Nat) : List Nat := (List.range 8).map fun k => v / 16 ^ k % 16

def latOk (v : Nat) : Bool := (latField v).all (0 < ·)

/-- The header's checks (cause 2), the data length apart. -/
def headerOk (h : List Byte) : Bool :=
  let f := byteField h
  let ordered := f 0x06 2 = 1
  f 0x06 2 ≤ 1 && latOk (f 0x10 4) && 1 ≤ f 0x14 1 && f 0x14 1 ≤ 4 && f 0x15 1 ≤ 4 && 4 ≤ f 0x16 1 && f 0x16 1 ≤ 14 &&
    (f 0x17 1 = 1 || (!ordered && (f 0x17 1 = 2 || f 0x17 1 = 4))) &&
    1 ≤ f 0x18 1 && f 0x18 1 ≤ 3 && (!ordered || f 0x18 1 = 1) && f 0x19 3 = 0 &&
    1 ≤ f 0x1C 4 && f 0x1C 4 ≤ 65536 && 1 ≤ f 0x24 4 && f 0x28 4 + 0x8000 ≤ f 0x16 1 * 0x10000 &&
    f 0x2C 2 ≤ 4096 && f 0x2E 2 = 0 && f 0x30 4 ≤ f 0x24 4 + 32 && f 0x34 4 ≤ f 0x28 4 &&
    2 ^ 24 ≤ f 0x38 8 && f 0x38 8 < 2 ^ 48 && f 0x38 8 % 64 = 0 &&
    f 0x40 8 % 64 = 0 && f 0x48 8 % 64 = 0 && f 0x50 8 % 64 = 0 && f 0x58 8 % 64 = 0 && zeroField h 0x60 32

/-- Where each routine's data ends: the next 64-byte boundary after the data before it, plus its length (R294). -/
def dataEnd (kernel : Nat) (units : List Nat) : Nat :=
  (units.foldl (fun (p : Nat × Nat) u =>
    let start := (p.1 + 63) / 64 * 64
    (start + 64 * u, if u = 0 then p.2 else start + 64 * u)) (kernel, kernel)).2

/-- A clause record (R295). -/
def readClause (b : List Byte) : Option Clause :=
  let f := byteField b
  match f 0 1 with
  | 1 => if f 1 7 = 0 ∧ zeroField b 10 54 then some (.sregs (BitVec.ofNat 16 (f 8 2))) else none
  | 2 =>
    if f 1 7 = 0 ∧ f 40 1 < 16 ∧ zeroField b 41 23 then
      some (.rows (BitVec.ofNat 256 (f 8 32)) (BitVec.ofNat 4 (f 40 1)))
    else none
  | 3 => if f 1 7 = 0 ∧ f 8 1 < 16 ∧ zeroField b 9 55 then some (.accs (BitVec.ofNat 4 (f 8 1))) else none
  | 4 =>
    let a := (b.drop 8).take 28
    let n := (b.drop 36).take 28
    if f 1 7 = 0 ∧ (runProg (fun _ => 0) 64 a []).isSome ∧ (runProg (fun _ => 0) 64 n []).isSome then
      some (.scratch a n)
    else none
  | 5 => if f 1 7 = 0 ∧ f 8 1 < 64 ∧ zeroField b 9 55 then some (.flags (BitVec.ofNat 6 (f 8 1))) else none
  | 6 =>
    if f 1 7 = 0 ∧ f 8 1 ≤ f 9 1 ∧ f 9 1 < 64 ∧ zeroField b 10 54 then some (.lfsr (f 8 1) (f 9 1)) else none
  | _ => none

/-- A routine as the image holds it: its entry's 32 bytes, its body, its clause bytes. -/
structure RawRoutine where
  entry : List Byte
  body : List Word
  clauses : List (List Byte)
  deriving DecidableEq, Repr

/-- An image as read, before its checks. -/
structure RawImage where
  header : List Byte
  text : List Word
  data : List Byte
  routines : List RawRoutine
  relocs : List (List Byte)
  deriving DecidableEq, Repr

/-- Cuts bytes into records. -/
def records (size : Nat) : Nat → List Byte → List (List Byte)
  | 0, _ => []
  | n + 1, bs => bs.take size :: records size n (bs.drop size)

namespace State

/-- Reads one routine of an image. -/
def readRoutine (s : State) (x base : Nat) (e : List Byte) : Option RawRoutine :=
  let f := byteField e
  match s.agentRead x (base + f 0 4) (8 * f 4 4), s.agentRead x (base + f 0x18 8) (64 * f 0x14 2) with
  | some b, some c => some { entry := e, body := wordsOf (f 4 4) b, clauses := records 64 (f 0x14 2) c }
  | _, _ => none

/-- Reads an image by the offsets and lengths of its header. -/
def readImage (s : State) (x base : Nat) (h : List Byte) : Option RawImage := do
  let f := byteField h
  let text ← s.agentRead x (base + f 0x40 8) (8 * f 0x24 4)
  let data ← s.agentRead x (base + f 0x48 8) (f 0x28 4)
  let table ← s.agentRead x (base + f 0x50 8) (32 * f 0x2C 2)
  let relocs ← s.agentRead x (base + f 0x58 8) (16 * f 0x30 4)
  let routines ← (records 32 (f 0x2C 2) table).mapM (s.readRoutine x base)
  pure { header := h, text := wordsOf (f 0x24 4) text, data, routines, relocs := records 16 (f 0x30 4) relocs }

end State

/-! ## Verification (R299) -/

/-- The syllables of a text or body with the instruction each decodes to alone or with its LX: none where it decodes to
nothing. -/
def scan : List Word → List (Word × Option Instr)
  | [] => []
  | w :: rest =>
    let lx : Option (BitVec 32) := match rest with
      | x :: _ => if classOf x = 6 ∧ extendable w ∧ !stopOf w then some (BitVec.ofNat 32 x.toNat) else none
      | [] => none
    (w, match decode w lx with | .ok i => some i | .error _ => none) :: scan rest

/-- For each syllable, the start of its group within the same text or body (R65). -/
def groupStarts : Nat → Nat → List Word → List Nat
  | _, _, [] => []
  | k, start, w :: rest => start :: groupStarts (k + 1) (if stopOf w then k + 1 else start) rest

/-- Whether a body may hold a syllable (R221). -/
def bodyAllowed (i : Instr) : Bool :=
  match i with
  | .wait .. | .waitc .. | .bar _ | .halt _ | .jmp .. | .setfm .. | .setfcr .. | .rel _ | .wfence _ => false
  | .wrctl _ r _ => 0x100 ≤ r.toNat && r.toNat < 0x140
  | i => i.cls ≠ 4

/-- Whether a word that decodes to nothing is one of the syllables that R221 forbids, by its opcode: an engine syllable; jmp,
wait, waitc, bar, halt, setfm, setfcr, a wrctl of another register than an LFSR; rel or wfence. -/
def rawForbidden (w : Word) : Bool :=
  let op := fld w.toNat 52 8
  let reg := fld w.toNat 32 12
  match classOf w with
  | 4 => true
  | 5 => op = 0x04 || op = 0x09 || op = 0x0A || op = 0x0B || op = 0x0D || op = 0x10 || op = 0x11 ||
      (op = 0x13 && !(0x100 ≤ reg && reg < 0x140))
  | 3 => op = 0x19 || op = 0x1A
  | _ => false

/-- The registers that a body must find in its clauses (R222). -/
def clauseKind (r : Res) : Bool :=
  match r with
  | .sreg (.s n) => n.val < 16
  | .row .. | .h _ | .acc .. | .accExp _ => true
  | _ => false

/-- Whether the register clauses of one contract hold those of another. -/
def contains (outer inner : List Clause) : Bool :=
  let has (r : Res) : Bool := outer.any fun c => CoreTask.clauseHas c r
  inner.all fun c => match c with
    | .sregs m => (List.range 16).all fun n => !bitOf m n || has (.sreg (.s (fin 32 n)))
    | .rows m h =>
      ((List.range 256).all fun k => !bitOf m k || has (.row (fin 16 (k / 16)) (fin 16 (k % 16)))) &&
        (List.range 4).all fun n => !bitOf h n || has (.h (fin 4 n))
    | .accs m => (List.range 4).all fun n => !bitOf m n || has (.accExp (fin 4 n))
    | _ => true

/-- Where in its own text or body a static transfer lands, when its displacement is a target at all (cause 6). -/
def transferOk (starts : List Nat) (k : Nat) (i : Instr) (nRoutines : Nat) : Bool :=
  let at_ (disp : Int) : Bool :=
    let target : Int := (starts.getD k 0 : Nat) + disp
    0 ≤ target && target < starts.length && starts.getD target.toNat 1 = target.toNat
  match i with
  | .br _ d | .call _ d => at_ d.toInt
  | .loop _ _ d => 0 < d.toInt && at_ d.toInt
  | .rcall _ n => n.toNat < nRoutines
  | .rcallAsync _ n _ => n.toNat < nRoutines
  | _ => true

/-- The first offending syllable of a text or body (cause 6), by its index. -/
def transferFault (ws : List Word) (nRoutines : Nat) : Option Nat :=
  let starts := groupStarts 0 0 ws
  ((scan ws).zipIdx.find? fun p => match p.1.2 with
    | some i => !transferOk starts p.2 i nRoutines
    | none => false).map (·.2)

/-- A routine as its bytes read, unchecked; a clause record that breaks R295 is no clause. -/
def plainEntry (r : RawRoutine) : Routine :=
  let f := byteField r.entry
  { base := 0, len := r.body.length, lat := latField (f 8 4), pmask := BitVec.ofNat 8 (f 0x0C 1), level := f 0x0D 1,
    cycles := f 0x10 4, clauses := r.clauses.filterMap readClause,
    unit := catalogueMatch r.body (latField (f 8 4)) ((r.entry.drop 0x0C).take 8 ++ r.clauses.flatten),
    bound := false }

/-- A routine from its raw form (R294, R295): none when its entry or a clause breaks its rule (cause 4). -/
def readEntry (interval : Nat) (r : RawRoutine) : Option Routine :=
  let f := byteField r.entry
  if f 0 4 % 8 = 0 ∧ 1 ≤ f 4 4 ∧ latOk (f 8 4) ∧ f 0x0D 1 ≤ 5 ∧ f 0x0E 2 = 0 ∧ 1 ≤ f 0x10 4 ∧ f 0x10 4 ≤ 65536 ∧
      f 0x10 4 ≤ interval ∧ f 0x18 8 % 64 = 0 then
    (r.clauses.mapM readClause).map fun _ => plainEntry r
  else none

/-- The bases of bodies in routine order after the text (R301). -/
def placeBodies : Nat → List Routine → List Routine
  | _, [] => []
  | k, r :: rest => { r with base := k } :: placeBodies (k + r.len) rest

/-- Whether a body keeps R221 and the register checks of R222 (cause 5). -/
def bodyOk (all : List Routine) (r : Routine) (body : List Word) : Bool :=
  (scan body).all fun p => match p.2 with
    | none => !rawForbidden p.1
    | some i =>
      bodyAllowed i &&
        (let u := uses false i
         (u.reads ++ u.writes).all fun x => !clauseKind x || r.clauses.any fun c => CoreTask.clauseHas c x) &&
        match i with
        | .rcall _ n | .rcallAsync _ n _ =>
          match all[n.toNat]? with
          | some q => contains r.clauses q.clauses
          | none => true
        | _ => true

/-- A relocation record's checks (cause 7): its target is an SI or ML syllable that an LX follows (R115, R116, R296). -/
def relocOk (text : List Word) (params slices : Nat) (b : List Byte) : Bool :=
  let t := byteField b 0 4
  let arg := byteField b 8 8
  (if 2 ^ 31 ≤ t then t % 2 ^ 31 < 32
   else t < 2 ^ 14 && t < text.length &&
     match text[t]?, text[t + 1]? with
     | some w, some x =>
       extendable w && !stopOf w && classOf x = 6 &&
         (classOf w ≤ 1 || (classOf w = 3 && (fld w.toNat 52 8 ≤ 0x0B || fld w.toNat 52 8 = 0x1B)))
     | _, _ => false) &&
  zeroField b 5 3 &&
  match byteField b 4 1 with
  | 1 => arg % 8 = 0 && arg + 8 ≤ params
  | 2 | 5 => arg < slices
  | 3 | 4 => arg = 0
  | _ => false

/-- A read image with its routine entries as the loader keeps it. -/
def imageOf (r : RawImage) (rs : List Routine) : Image :=
  let f := byteField r.header
  { ordered := f 0x06 2 = 1, gen := BitVec.ofNat 64 (f 0x08 8), lat := latField (f 0x10 4),
    tiles := 4 * f 0x14 1, accs := f 0x15 1, share := 0x10000 * f 0x16 1, groupSize := f 0x17 1,
    replicas := f 0x18 1, interval := f 0x1C 4, params := f 0x20 4, text := r.text, data := r.data,
    routines := rs, bodies := (r.routines.map (·.body)).flatten,
    relocs := r.relocs.map fun b => (byteField b 0 4, byteField b 4 1, BitVec.ofNat 64 (byteField b 8 8)),
    report := BitVec.ofNat 64 (f 0x38 8) }

/-- The routines of a read image, placed after its text (R294, R301). -/
def routinesOf (r : RawImage) : List Routine :=
  placeBodies r.text.length ((r.routines.map (readEntry (byteField r.header 0x1C 4))).filterMap id)

/-- The verdict on an image: the cause and offending index of R299 and R300, or the image. -/
def judgeImage (r : RawImage) (slices : Nat) : Except (Nat × Nat) Image :=
  let f := byteField r.header
  let n := r.text.length
  let bodies := r.routines.map (·.body)
  if dataEnd (f 0x34 4) (r.routines.map fun q => byteField q.entry 0x16 2) ≠ f 0x28 4 then .error (2, 0)
  else if 16384 < n + bodies.flatten.length then .error (3, 0xFFFFFFFF)
  else
    let ends := (r.text :: bodies).foldl (fun (p : Nat × Option Nat) b =>
      (p.1 + b.length, p.2.or
        (if b.isEmpty || b.getLast?.any stopOf then none else some (p.1 + b.length - 1)))) (0, none)
    match ends.2 with
    | some k => .error (3, k)
    | none =>
      let entries := r.routines.map (readEntry (f 0x1C 4))
      match entries.findIdx? (·.isNone) with
      | some k => .error (4, k)
      | none =>
        let rs := routinesOf r
        match (rs.zip bodies).findIdx? fun p => !bodyOk rs p.1 p.2 with
        | some k => .error (5, k)
        | none =>
          match ((0, r.text) :: (rs.map (·.base)).zip bodies).findSome? fun p =>
              (transferFault p.2 rs.length).map (p.1 + ·) with
          | some k => .error (6, k)
          | none =>
            match r.relocs.findIdx? fun b => !relocOk r.text (f 0x20 4) slices b with
            | some k => .error (7, k)
            | none => .ok (imageOf r rs)

namespace State

/-- The logical slices of a context in ascending order (R268). -/
def sliceList (s : State) (x : Nat) : List Nat := (List.range 128).filter fun k => bitOf (s.ctx x).cSlices k

/-- Whether some byte of the parameters that an image asks for cannot be read at an address (R299 cause 8). -/
def paramsUnread (s : State) (x p : Nat) (im : Image) : Bool := 0 < im.params && (s.agentRead x p im.params).isNone

/-- Reads and judges an image through a context's translation, with the parameter block of its launch, in the order of R299. Its
generation is read again after the last read; whether it has changed by then is an input (`Exe.rewritten`; notes/assumptions
21). -/
def verify (s : State) (x base p : Nat) : Except (Nat × Nat) Image :=
  match s.agentRead x base 128 with
  | none => .error (1, 0)
  | some h =>
    if byteField h 0 4 ≠ 0x4B524D53 ∨ byteField h 4 2 ≠ 1 then .error (1, 0)
    else match s.readImage x base h with
      | none => .error (1, 0)
      | some r =>
        if !headerOk h then .error (2, 0)
        else match judgeImage r (s.sliceList x).length with
          | .error e => .error e
          | .ok im =>
            if s.paramsUnread x p im then .error (8, 0) else if s.exe.rewritten then .error (9, 0) else .ok im

/-- An image that stands verified, as its bytes read now, which are not judged again: each routine keeps its index (R303;
notes/assumptions 21). -/
def rereadImage (s : State) (x base : Nat) : Except (Nat × Nat) Image :=
  match (s.agentRead x base 128).bind (s.readImage x base) with
  | none => .error (1, 0)
  | some r => .ok (imageOf r (placeBodies r.text.length (r.routines.map plainEntry)))

/-- The report address and generation of a header, as far as it can be read. -/
def reportSpot (s : State) (x base : Nat) : Nat × Word :=
  match s.agentRead x base 64 with
  | some h => (byteField h 0x38 8, BitVec.ofNat 64 (byteField h 8 8))
  | none => (0, 0)

/-- The number of a catalogue entry in a load report (R300). -/
def unitCode : Option Native → Nat
  | none => 0
  | some .pmmBlk => 1
  | some .dot4 => 2
  | some .rcp => 3
  | some .rsqrt => 4
  | some .exp2 => 5

/-- Writes the load report at an address, with the generation verified (R300); a report that cannot be written is dropped. -/
def writeReport (s : State) (x : Nat) (spot : Nat × Word) (v : Except (Nat × Nat) Image) : State :=
  let (addr, gen) := spot
  let head (cause idx : Nat) : List Byte := leBytes 4 cause ++ leBytes 4 idx ++ leBytes 8 gen.toNat ++ List.replicate 48 0
  if 2 ^ 24 ≤ addr ∧ addr < 2 ^ 48 then
    match v with
    | .error (c, i) => s.agentWrite x addr (head c i)
    | .ok im =>
      let l := im.routines.map fun r => (BitVec.ofNat 8 (unitCode r.unit) : Byte)
      s.agentWrite x addr (head 0 0 ++ l ++ List.replicate ((64 - l.length % 64) % 64) 0)
  else s

/-! ## Relocation (R297) -/

/-- One relocation's value at a launch's first placement: none where a buf word cannot be read. dist has none of its own
here. -/
def relocValue (s : State) (x : Nat) (params : Word) (cnt cores : Nat) (r : Nat × Nat × Word) : Option Word :=
  match r.2.1 with
  | 1 => (s.agentNat x (params.toNat + r.2.2.toNat) 8).map (BitVec.ofNat 64)
  | 2 => some (BitVec.ofNat 64 (2 ^ 60 + (s.sliceList x).getD r.2.2.toNat 0 * 2 ^ 52))
  | 3 => some (BitVec.ofNat 64 cnt)
  | 4 => some (BitVec.ofNat 64 cores)
  | _ => some 0

/-- The value of a dist relocation for a task on a core: the distances of the physical core and slices that stood behind the
logical ones at the launch's first placement (R14, R17, R297). -/
def distValue (s : State) (l : Launch) (core j : Nat) : Word :=
  let sl := s.sliceList l.ctx
  let m := (mget 0 l.mapCluster (core / 4)).toNat
  BitVec.ofNat 64 (leNat ((List.range 8).map fun k =>
    match sl[j + k]? with
    | some n =>
      let p := (mget 0 l.mapSlice n).toNat
      Config.distance (4 * (m / 32 * 26 + m % 32) + core % 4) (p / 32 * 17 + p % 32)
    | none => 255))

end State

/-- Writes a relocation's value into a syllable and its LX (R296). -/
def patch (text : List Word) (target : Nat) (v : Word) : List Word :=
  (text.modify target fun w => BitVec.ofNat 64 (w.toNat / 2 ^ 32 * 2 ^ 32 + v.toNat % 2 ^ 32)).modify (target + 1)
    fun w => BitVec.ofNat 64 (w.toNat / 2 ^ 32 * 2 ^ 32 + v.toNat / 2 ^ 32)

/-! ## Loading a core (R301, R306 step 1, R312) -/

/-- A list as sparse data from a key up. -/
def fromList (k : Nat) (l : List Word) : FMap Word := (l.zipIdx.map fun p => (k + p.2, p.1)).filter fun p => p.2 ≠ 0

/-- The leases a core keeps when a launch with another share is loaded: none from another context; else the lines that stand
in the part that stays cache (R312). -/
def keepLeases (sameCtx : Bool) (share : Nat) (t : CoreTask) : List Lease :=
  if sameCtx then t.lm.leases.filter fun l => l.slot < State.cacheLines share else []

namespace State

/-- Whether a launch binds matched routines native on a replica (R229). -/
def bindsNative (l : Launch) (replica : Nat) : Bool := l.mode = 0 || (l.mode = 2 && replica = 0)

/-- The task that the loader leaves on a core of a placed group (R74, R99, R296, R301, R306): instruction memory, presets,
scratchpad. `old` is what the core held before. -/
def loadTask (s : State) (l : Launch) (g : GroupPl) (cidx : Nat) (old : CoreTask) : CoreTask :=
  let core := 4 * g.cluster + cidx
  let firstCore := 4 * g.first.getD g.cluster + cidx
  let vals := (l.img.relocs.zip l.vals).map fun r =>
    (r.1.1, if r.1.2.1 = 5 then s.distValue l firstCore r.1.2.2.toNat else r.2)
  let text := vals.foldl (fun t r => if r.1 < 2 ^ 31 then patch t r.1 r.2 else t) l.img.text
  let presets := vals.filter fun r => 2 ^ 31 ≤ r.1
  let idx := g.idx * l.img.groupSize + cidx
  let t := CoreTask.empty core
  let sameCtx := mget 0 s.exe.lastCtx g.cluster = l.ctx + 1
  { t with
    id := { t.id with cidBase := firstCore, ctx := l.ctx, launch := l.id, idx, cnt := l.cnt, gidx := g.idx, cidx,
                      replica := g.replica, copies := l.copies, ordered := l.img.ordered, base := l.params },
    code := { imem := fromList 0 (text ++ l.img.bodies), textLen := l.img.text.length,
              codeLen := l.img.text.length + l.img.bodies.length,
              routines := l.img.routines.map fun r =>
                { r with bound := bindsNative l g.replica && r.unit.isSome },
              lat := l.img.lat, nTiles := l.img.tiles, nAccs := l.img.accs, share := l.img.share,
              groupSize := l.img.groupSize, interval := l.img.interval },
    r := presets.foldl (fun r v => if v.1 % 32 < 16 then { r with s := mset 0 r.s (v.1 % 32) v.2 }
                                   else { r with b.s := mset 0 r.b.s (v.1 % 32) v.2 }) t.r,
    lm := { t.lm with scratch := writeBytes [] 0 l.img.data, leases := keepLeases sameCtx l.img.share old,
                      clock := max old.lm.clock s.net.clock, planeMark := old.lm.planeMark },
    pipe.seen := old.pipe.seen,
    ctl.st := if l.cnt ≤ idx then .halted else .loaded }

def launchOf (s : State) (id : Nat) : Option Launch := s.exe.launches.find? fun l => l.id = id

def setLaunch (s : State) (id : Nat) (f : Launch → Launch) : State :=
  { s with exe.launches := s.exe.launches.map fun l => if l.id = id then f l else l }

end State

end Sys2Proof.Machine
end

