-- ==== Sys2Proof/Machine/Order.lean ====
section
/-! DEFINITION. Held writes: the records of a release, the meeting and its vote, publication, resynchronisation, and the
commits of ordered launches (25_redundancy R363 to R382). -/

namespace Sys2Proof.Machine

/-! ## Records and signatures (R366, R367) -/

/-- The EN opcode of an operation (R125). -/
def EngOp.code : EngOp → Nat
  | .cpy => 1
  | .cpya => 2
  | .cpyp => 3
  | .cpyu => 4
  | .cpyl => 5
  | .cpyx => 6
  | .sig => 7
  | .ixst => 8
  | .ixend => 9
  | .marr => 10

/-- The command word of R217. -/
def cmdWord (c : Cmd) (skip : Nat) : Word :=
  BitVec.ofNat 64 (c.op.code * 2 ^ 60 + c.ctr * 2 ^ 56 + c.cw.toNat * 2 ^ 55 + c.ret.toNat * 2 ^ 54 + c.red * 2 ^ 50 +
    encSpan c.ss * 2 ^ 46 + encSpan c.ds * 2 ^ 42 + c.tag.toNat * 2 ^ 26 + skip % 2 ^ 26)

/-- Bytes folded by mix as zero-padded 8-byte words (R366); `fuel` bounds their number. -/
def foldBytes : Nat → Word → List Byte → Word
  | 0, d, _ => d
  | n + 1, d, bs => if bs.isEmpty then d else foldBytes n (mix d (BitVec.ofNat 64 (leNat (bs.take 8)))) (bs.drop 8)

def releaseCode : Release → Nat
  | .rel => 0
  | .marr => 1
  | .halt => 2
  | .implicit => 3

/-- The six words of a held sector. -/
def sectorWords (a : Nat) (e : HeldSector) : List Word :=
  let byte (k : Nat) : Nat := if bitOf e.mask k then e.data.toNat / 2 ^ (8 * k) % 256 else 0
  [BitVec.ofNat 64 (2 ^ 60 + 32 * a), e.mask.setWidth 64] ++
    (List.range 4).map fun w => BitVec.ofNat 64 (packNat 8 ((List.range 8).map fun k => byte (8 * w + k)))

namespace State

/-- Gathers the bytes of several reads in order, or the reason of the first that fails. -/
def gather (l : List (Except Nat (List Byte))) : Except Nat (List Byte) :=
  l.foldl (fun r x => match r, x with
    | .ok a, .ok b => .ok (a ++ b)
    | .error e, _ => .error e
    | _, .error e => .error e) (.ok [])

/-- The bytes of one read, the state after it forgotten. -/
def bytesOf (r : Except Nat (List Byte × State)) : Except Nat (List Byte) := r.map (·.1)

/-- The source bytes of a held command in the order it reads them, through the current task's translation; the index
words of an index command follow (R366); of its own scratchpad the newest. -/
def payload (s : State) (c : Cmd) : Except Nat (List Byte) :=
  let s := s.onT fun t => { t with lm.behind := [] }
  let row (a stride : Word) (r col n : Nat) : Except Nat (List Byte) :=
    match s.rowSpot a stride r col with
    | none => .error 4
    | some (sp, off) => bytesOf (s.engRead (cmdPath c) sp off n .r)
  match c.op with
  | .sig | .marr => .ok []
  | .cpyp =>
    gather ((List.range c.unitCount).flatMap fun u => (List.range 32).map fun i =>
      row (c.dv 0) (c.dv 3) (32 * (u / c.blockCols) + i) (u % c.blockCols * 128 * c.elemBytes) (128 * c.elemBytes))
  | .cpyu =>
    gather ((List.range c.unitCount).map fun u => (s.unpackSource c u).map fun l => l.map (·.2))
  | .ixst | .ixend =>
    let words := readWords ((List.range c.indexRows).map fun j => (s.indexWord c j).map (·.1))
    let rows := words.zipIdx.map fun w => match w.1 with
      | .error e => .error e
      | .ok x =>
        if x = 0xFFFFFFFF || (c.nv 2).toNat % 2 ^ 32 ≤ x then .ok []
        else row (c.dv 0) (c.dv 3) (if c.op = .ixst then x else w.2) 0 c.rowBytes
    gather (rows ++ words.map fun w => w.map (leBytes 4 ·))
  | _ => gather ((List.range c.unitCount).map fun u => bytesOf (s.sourceChunk c u))
where
  /-- The index words that the command reads: up to one at or above its bound, which ends it (R209, R216). -/
  readWords : List (Except Nat Nat) → List (Except Nat Nat)
    | .ok x :: l => if x ≠ 0xFFFFFFFF ∧ (c.nv 2).toNat % 2 ^ 32 ≤ x then [.ok x] else .ok x :: readWords l
    | e => e

/-- The record words of the current task's held set, the release's own word apart; or the command whose source cannot be
read, with the reason (R366). -/
def heldWords (s : State) : Except (Cmd × Nat) (List Word) :=
  let secs := s.t.held.sectors.flatMap fun e => sectorWords e.1 e.2
  (s.t.eng.cmds.filter (·.held)).foldl (fun r c => match r with
    | .error e => .error e
    | .ok ws =>
      match s.payload c with
      | .error e => .error (c, e)
      | .ok bs =>
        let n := if c.op = .ixst ∨ c.op = .ixend then c.n else []
        .ok (ws ++ BitVec.ofNat 64 (2 * 2 ^ 60) :: cmdWord c 0 :: (c.d ++ n ++ [foldBytes (bs.length / 8 + 1) 0 bs]))) (.ok secs)

/-- The store signature over record words (R367). -/
def signature (ws : List Word) : Word × Word := ws.foldl (fun p w => (mix p.1 w, mix p.2 (~~~w))) (0, 0)

/-- The stop of R366 for a held command whose source cannot be read. -/
def unreadable (c : Cmd) (reason : Nat) : Trap :=
  { cause := 0x08, sub := 0, cls := 3, val := BitVec.ofNat 64 (c.tag.toNat * 2 ^ 48 + reason % 16 * 2 ^ 44), reason := reason % 16 }

/-! ## Publication (R370) -/

/-- Publishes the current task's held sectors at one timestamp (R370). A sector whose page no longer permits the write is
lost (notes/assumptions 22). -/
def publishSectors (s : State) : State :=
  let x := s.t.id.ctx
  let key := s.keyOf x
  let places := s.t.held.sectors.filterMap fun e => (s.agentPa x (32 * e.1) .w).map fun pa => (pa, e.2)
  let ts := places.foldl (fun m p => let h := s.home (p.1 / 128); max m (max h.1 (h.2 + 1))) (max s.net.clock s.t.lm.clock)
  let s := places.foldl (fun s p =>
    let bytes := leBytes 32 p.2.data.toNat
    let s := s.setHome (p.1 / 128) (ts, ts)
    if p.2.mask = BitVec.allOnes 32 then s.physWrite key p.1 bytes
    else bytes.zipIdx.foldl (fun s b => if bitOf p.2.mask b.2 then s.physWrite key (p.1 + b.2) [b.1] else s) s) s
  { s.onT fun t => { t with held.sectors := [], lm.clock := ts } with net.clock := ts }

/-- The wait that follows a meeting (R370): at a rel and a halt for the published commands, at a marr for nothing. -/
def afterMeeting (ord : Nat) : Wait → Wait
  | .meet .rel => .rel ord
  | .meet .halt => .halt
  | .meet _ => .barLeft 0
  | w => w

/-- Commands as a replica that does not execute them knows them (R370). -/
def awayOf (l : List Cmd) : List Away := l.map fun c => { ord := c.ord, path := cmdPath c, admitted := c.units == c.total }

/-- What a replica that agrees is left with after a publication: the lead alone keeps the commands, which are executed for the others,
and a marr of the group alone arrives; the others' marr waits for the milestone (R370). -/
def settleReplica (lead : Bool) (clock : Nat) (t : CoreTask) : CoreTask :=
  let marr := t.pipe.waits.contains (.meet .marr)
  let cmds := if lead then t.eng.cmds.map fun (c : Cmd) =>
      if c.held then { c with held := false, pub := true } else { c with met := c.met || c.op = .marr }
    else (t.eng.cmds.filter fun c => !c.held).map fun (c : Cmd) =>
      if marr && c.op = .marr && !c.met then { c with met := true, units := 1 } else c
  { t with
    eng.away := if lead then t.eng.away else t.eng.away ++ awayOf (t.eng.cmds.filter (·.held)),
    held.sectors := [], held.sigLo := 0, held.sigHi := 0, held.meet := none, held.meetAge := 0,
    held.releases := t.held.releases + 1, lm.clock := max t.lm.clock clock,
    eng.cmds := cmds,
    pipe.waits := t.pipe.waits.map (afterMeeting t.pipe.ord) }.startCmds

/-! ## Meetings (R368, R369, R372) -/

/-- Whether a command is executed for the task as a whole and no longer for its replica: published, or a marr that has met
(R370). -/
def forTask (c : Cmd) : Bool := c.pub || c.met

/-- The tasks of the current task's replica set: the placed ones, and those saved, which stay outside a meeting (R373). -/
def replicaSet (s : State) : List CoreTask := (s.tasks ++ s.exe.saved).filter fun t => replicas s.t t && t.ctl.st != .placed

/-- Resolves a closed meeting of the current task's replica set (R369). A mismatch stops each replica at its own release, of its own kind; at an implicit
release the syllable that would overflow reports it, when its group issues for that (R345). Two equal signatures publish, in the fourth case of R386 too
(DEDUCED; notes/assumptions 57). -/
def resolve (s : State) : State :=
  let set := s.replicaSet
  let came := set.filter fun t => t.held.meet.isSome
  let agrees (a b : CoreTask) : Bool :=
    b.held.meet.isSome && a.held.sigLo = b.held.sigLo && a.held.sigHi = b.held.sigHi
  let k := s.t.id.copies
  let leads := came.filter fun t => (if k = 3 then 2 else k) ≤ (set.filter (agrees t)).length
  let kind := (came.head?.bind (·.held.meet)).elim Release.rel (·.2)
  match leads.foldl (fun (o : Option CoreTask) t => match o with
      | none => some t
      | some u => some (if t.id.replica < u.id.replica then t else u)) none with
  | some lead =>
    let s := s.atCore lead.id.core (·.publishSectors)
    let ok := (set.filter (agrees lead)).map (·.id.replica)
    let minor := (set.filter fun t => !ok.contains t.id.replica).map (·.id.replica)
    let of (l : List Nat) (t : CoreTask) : Bool := replicas s.t t && l.contains t.id.replica
    let s := s.onTasks (of ok) fun t => settleReplica (t.id.core = lead.id.core) s.net.clock t
    let s := if minor.isEmpty then s
      else (s.onTasks (of ok) fun t => { t with held.sync := some (lead.id.core, false) }).onWhole (of minor) fun t =>
          { t with held.sync := some (lead.id.core, true), held.sectors := [], held.meet := none, held.meetAge := 0, pipe.pend := [], pipe.loads := [],
                   eng.cmds := t.eng.cmds.filter forTask }
    if kind = .implicit then s.count s.t.id.ctx 18 1 else s
  | none =>
    let stop (t : CoreTask) : CoreTask :=
      let mine := t.held.meet.elim kind (·.2)
      let val : Word := BitVec.ofNat 64 (t.held.releases * 2 ^ 32 + releaseCode mine * 2 ^ 8 + (2 ^ k - 1))
      let tr : Trap := { cause := 0x11, sub := 0, cls := 5, val, reason := 0 }
      if t.held.meet.isNone then { t with ctl.due := t.ctl.due ++ [tr] }
      else if mine = .implicit then { t with held.meet := none, held.meetAge := 0, held.mismatch := some val, pipe.grp := Group.idle }
      else { t.stopNow tr with held.meet := none, held.meetAge := 0 }
    s.onWhole (replicas s.t) stop

/-- The groups a task has issued: a resumed group that is still to issue again is counted already (R151, R347). -/
def groupsIssued (t : CoreTask) : Nat := t.r.lcycle.toNat - (if t.pipe.recount then 1 else 0)

/-- Whether a replica that has not arrived has passed a release: it has issued its n-th group, and does not stand in it on its way to
the release, as at a halt that waits for routines (R150, R368). -/
def passed (n : Nat) (t : CoreTask) : Bool :=
  n < groupsIssued t || (n = groupsIssued t && !t.pipe.waits.any fun w => match w with | .meet _ => true | _ => false)

/-- Closes the current task's meeting when every replica has come or one has passed it, or on a timeout (R368). Whether one
has passed is judged from the cycle after the arrival on, when every replica has had its turn in the cycle of the arrival
(notes/assumptions 6). -/
def closeMeeting (s : State) (later timeout : Bool) : State :=
  let set := s.replicaSet
  match s.t.held.meet with
  | none => s
  | some (n, _) =>
    let missing := set.filter fun t => t.held.meet.isNone
    if (missing.isEmpty && set.length = s.t.id.copies) || (later && missing.any (passed n)) || timeout then s.resolve
    else s

/-- The current task arrives at a release: its sources are read, its signature formed (R366, R368). -/
def meetAt (s : State) (kind : Release) (groups : Nat) : State :=
  match s.heldWords with
  | .error (c, e) => s.onT fun t => t.stopBetween (unreadable c e)
  | .ok ws =>
    let sg := signature (ws ++ [BitVec.ofNat 64 (3 * 2 ^ 60 + releaseCode kind)])
    (s.onT fun t => { t with held.meet := some (groups, kind), held.sigLo := sg.1, held.sigHi := sg.2 }).closeMeeting false false

/-- A waiting cycle at a release: the arrival, once a halt's routines are done, then the passage of time (R368). -/
def meetTick (s : State) : State :=
  match s.t.held.meet with
  | some _ => (s.onT fun t => { t with held.meetAge := t.held.meetAge + 1 }).closeMeeting true false
  | none =>
    let kinds := s.t.pipe.waits.filterMap fun w => match w with | .meet k => some k | _ => none
    match kinds with
    | k :: _ => if s.t.pipe.waits.contains .halt then s else s.meetAt k s.t.r.lcycle.toNat
    | [] => s

end State

/-- RELEASE_MEETING_TIMEOUT (R368): 2^20 compute cycles after the first arrival the meeting closes. -/
def execReleaseMeetingTimeout (core : Nat) (s : State) : Out :=
  .next (s.atCore core fun s =>
    if s.t.held.meet.isSome ∧ s.replicaSet.any (fun t => 2 ^ 20 ≤ t.held.meetAge) then s.closeMeeting true true else s)

/-- The physical core behind a logical core (R14, R28): the cluster's place in the remap table. -/
def State.physCore (s : State) (core : Nat) : Nat :=
  let m := (mget 0 s.md.mapCluster (core / 4)).toNat
  4 * (m / 32 * 26 + m % 32) + core % 4

/-- Puts a spare of the same die or stack in the place of a logical unit: the lowest-numbered unmapped physical unit that is not retired
(R28 does not say which: DESIGN CHOICE; notes/assumptions 58). `per` counts the physical units of a die or stack;
`dead` says which are retired. -/
def remap (map : FMap (BitVec 16)) (logicals per log : Nat) (dead : Nat → Bool) : Option (FMap (BitVec 16)) :=
  let m := (mget 0 map log).toNat
  let used := (List.range logicals).map fun k => (mget 0 map k).toNat
  ((List.range per).find? fun i => !used.contains (m / 32 * 32 + i) && !dead (m / 32 * per + i)).map fun i =>
    mset 0 map log (BitVec.ofNat 16 (m / 32 * 32 + i))

/-- Whether a physical cluster, slice or channel has been marked for retirement. -/
def State.isDead (s : State) (u : HealthUnit) (k : Nat) : Bool :=
  match u with
  | .core => s.md.retired.any fun r => r.1 = .core && r.2 / 4 = k
  | _ => s.md.retired.contains (u, k)

/-- Whether a spare is left for a logical cluster (R28). -/
def State.spareLeft (s : State) (cl : Nat) : Bool := (remap s.md.mapCluster 192 26 cl (s.isDead .core)).isSome

/-- Substitutes a spare for a logical cluster, slice or channel whose physical unit is marked (R28). With none left on its die or stack
the unit stays, and spare_out is set then, not when the last one is used (R32: DESIGN CHOICE; notes/assumptions 58). -/
def State.substitute (s : State) (u : HealthUnit) (log : Nat) : State :=
  let (map, logicals, per) := match u with
    | .core => (s.md.mapCluster, 192, 26)
    | .slice => (s.md.mapSlice, 128, 17)
    | .chan => (s.md.mapChan, 256, 17)
  let m := (mget 0 map log).toNat
  if !s.isDead u (m / 32 * per + m % 32) then s
  else match remap map logicals per log (s.isDead u) with
    | none => { s with md.spareOut := true }
    | some map =>
      match u with
      | .core => { s with md.mapCluster := map }
      | .slice => { s with md.mapSlice := map }
      | .chan => { s with md.mapChan := map }

/-- The logical unit that a physical unit serves. -/
def State.logicalOf (s : State) (u : HealthUnit) (n : Nat) : Option Nat :=
  let find (map : FMap (BitVec 16)) (logicals per k : Nat) : Option Nat :=
    (List.range logicals).find? fun l => let m := (mget 0 map l).toNat; m / 32 * per + m % 32 = k
  match u with
  | .core => find s.md.mapCluster 192 26 (n / 4)
  | .slice => find s.md.mapSlice 128 17 n
  | .chan => find s.md.mapChan 256 17 n

/-- The context that uses a logical unit. -/
def State.userOf (s : State) (u : HealthUnit) (log : Nat) : Option Nat :=
  (List.range 64).find? fun x => match u with
    | .core => (s.ctx x).clusters.contains log
    | .slice => log < 128 && bitOf (s.ctx x).cSlices log
    | .chan => false

/-- Whether a marked unit may be replaced now: a cluster or slice that no context on the module uses, one that stands at a boundary not
counted; a channel, in a maintenance window (R28). -/
def State.replaceable (s : State) (u : HealthUnit) (log : Nat) : Bool :=
  match u with
  | .chan => s.md.own.window
  | _ => (s.userOf u log).all fun x => (s.ctx x).st ≠ .resident && (s.ctx x).st ≠ .faulted

/-- Whether a context save is in progress (R28). -/
def State.saving (s : State) : Bool :=
  s.exe.launches.any fun l => l.groups.any fun g => g.st = .stopping || g.st = .faulted

/-- The substitutions that may take place now (R28): none while a context save is in progress, nor while the module is gated, for they are
the executive's (R23); else those of marked clusters and slices that no context uses, and, in a maintenance window, of channels. -/
def State.settleSpares (s : State) : State :=
  if s.saving || s.md.gated then s
  else s.md.retired.foldl (fun s r =>
    (s.logicalOf r.1 r.2).elim s fun l => if s.replaceable r.1 l then s.substitute r.1 l else s) s

/-- Adds one to a health count. A count that reaches its threshold marks the unit for retirement, and what may be substituted now
is (R28). -/
def State.charge (s : State) (u : HealthUnit) (n : Nat) : State :=
  let up (m : FMap (BitVec 16)) : FMap (BitVec 16) := mmod 0 m n fun h => if h = 0xFFFF then h else h + 1
  let md := match u with
    | .core => { s.md with healthCore := up s.md.healthCore }
    | .slice => { s.md with healthSlice := up s.md.healthSlice }
    | .chan => { s.md with healthChan := up s.md.healthChan }
  let thr := match u with
    | .core => s.md.own.thresh.toNat % 65536
    | _ => s.md.own.thresh.toNat / 65536
  let now := match u with
    | .core => mget 0 md.healthCore n
    | .slice => mget 0 md.healthSlice n
    | .chan => mget 0 md.healthChan n
  if thr ≤ now.toNat ∧ !md.retired.contains (u, n) then
    { s with md := { md with retired := md.retired ++ [(u, n)] } }.settleSpares
  else { s with md := md }

/-- Substitutes the marked units of a context at its boundary; while a context save is in progress they wait (R28). -/
def State.substituteCtx (s : State) (x : Nat) : State :=
  if s.saving then s else
  let s := (s.ctx x).clusters.foldl (fun s c => s.substitute .core c) s
  (s.sliceList x).foldl (fun s k => s.substitute .slice k) s

/-- The commands of a minority brought level: those it executes for the task, the marrs that it missed, which wait for their
milestones, and the lead's own (R370, R372). -/
def State.leveledCmds (m l : List Cmd) : List Cmd :=
  let met (cs : List Cmd) : List Cmd := cs.filter fun c => c.met && !c.pub
  m.filter State.forTask ++ ((met l).drop (met m).length).map (fun (c : Cmd) => { c with units := 1 }) ++
    l.filter fun c => !State.forTask c

/-- A minority brought level: the lead's task state and scratchpad replace its own; what belongs to its core, the commands it
executes for the task, and the deliveries held back for it stay (R370, R372, R383). -/
def State.leveled (l m : CoreTask) : CoreTask :=
  let mine := m.eng.cmds.filter (·.pub)
  { l with
    id := m.id, code := { m.code with lat := l.code.lat },
    lm := { l.lm with behind := [], leases := m.lm.leases, clock := max l.lm.clock m.lm.clock, planeMark := m.lm.planeMark },
    eng := { l.eng with
      cmds := State.leveledCmds m.eng.cmds l.eng.cmds, acks := m.eng.acks, drops := m.eng.drops,
      linkWins := CoreTask.mergeWindows l.eng.linkWins m.eng.linkWins,
      away := State.awayOf (l.eng.cmds.filter (·.pub)) ++ l.eng.away.filter fun a => !mine.any fun c => c.ord = a.ord },
    ctl := { l.ctl with stopReq := m.ctl.stopReq, dbgReq := m.ctl.dbgReq }, pipe.seen := m.pipe.seen }

/-- RESYNC_COMPLETE (R372): the lead's state, its replies all landed, replaces the minority's on `core`; the deliveries held back are
applied at every replica, and every replica goes on (R383). -/
def execResyncComplete (core : Nat) (s : State) : Out :=
  .next (match s.taskOn core with
    | none => s
    | some m =>
      match m.held.sync with
      | none => s
      | some (lead, minor) =>
        match s.taskOn lead with
        | none => s
        | some l =>
          if !minor ∨ !l.pipe.loads.isEmpty then s
          else
            let s1 := s.onCore core (State.leveled l)
            let s2 := s1.onTasks (State.replicas l) fun t => { t with held.sync := none }.settleDrops
            (s2.charge .core (s.physCore core)).count m.id.ctx 19 1)

/-! ## Ordered launches (R375 to R381) -/

/-- The task that commits next. -/
def Launch.nextCommit (l : Launch) : Nat :=
  if l.order.isEmpty then l.commits else (l.order[l.commits]?).elim l.cnt (·.2)

namespace State

/-- Whether the current task is the oldest uncommitted task of its launch. -/
def isOldest (s : State) : Bool :=
  match s.launchOf s.t.id.launch with
  | some l => l.nextCommit = s.t.id.idx
  | none => false

/-- The lines that a held set's publication writes: those of its sectors and of its commands' destinations (R377). -/
def writtenLines (s : State) : List Nat :=
  let secs := s.t.held.sectors.map fun e => e.1 / 4
  (secs ++ (s.t.eng.cmds.filter fun c => c.held).flatMap s.cmdLines).eraseDups

/-- What tasks leave for R264 when their state is given up: the device time by which their link writes have joined. -/
def keepJoins (s : State) (p : CoreTask → Bool) : State :=
  let join (l : Launch) : Nat := (s.tasks.filter fun t => t.id.launch = l.id && p t).foldl
    (fun m t => t.eng.linkWins.foldl (fun m w => max m w.2) m) l.joinBy
  { s with exe.launches := s.exe.launches.map fun (l : Launch) => { l with joinBy := join l } }

/-- Starts a younger ordered task again from its first group (R377 step 3). -/
def restart (s : State) (l : Launch) (t : CoreTask) : CoreTask :=
  match l.groups.find? fun g => g.idx = t.id.gidx with
  | none => t
  | some g =>
    let n := s.loadTask l g t.id.cidx t
    { n with held.stamp := t.held.stamp, held.attempts := t.held.attempts + 1, ctl.st := .running,
             r.lfsr := [], ctl.stopReq := t.ctl.stopReq, ctl.dbgReq := t.ctl.dbgReq }

/-- Begins the publication of the current ordered task's held set (R377 step 1): its sectors at once, then its commands one at a time; the
record words are folded into its digest. Or the stop of R366. -/
def publishHeld (s : State) : Except Trap State :=
  match s.heldWords with
  | .error (c, e) => .error (unreadable c e)
  | .ok ws =>
    let lines := s.writtenLines
    let s1 := s.publishSectors.onT fun t =>
      { t with held.digest := ws.foldl mix t.held.digest, held.publishing := some lines,
               eng.cmds := t.eng.cmds.map fun (c : Cmd) => if c.held then { c with held := false, pub := true } else c }.startCmds
    .ok (s1.onTasks (fun t => t.id.launch = s.t.id.launch) fun t => { t with lm.clock := max t.lm.clock s1.net.clock })

/-- Appends a record of 64 bytes to a launch's log; a record that does not fit, or cannot be written, and every later one
is dropped, and the header says so (R282, R380). -/
def logRecord (s : State) (id : Nat) (bytes : List Byte) : State :=
  match s.launchOf id with
  | none => s
  | some l =>
    match l.log with
    | none => s
    | some (addr, len) =>
      if l.logLost then s
      else if l.logHead + 64 ≤ len ∧ s.mapped l.ctx (addr + l.logHead) 64 .w then
        (s.agentWrite l.ctx (addr + l.logHead) (bytes ++ List.replicate (64 - bytes.length) 0)).setLaunch id fun l =>
          { l with logHead := l.logHead + 64 }
      else
        (s.agentWrite l.ctx addr (leBytes 8 0 ++ leBytes 8 l.commits)).setLaunch id fun l => { l with logLost := true }

/-- The input records and the commit record of the current task (R380). -/
def logCommit (s : State) (l : Launch) : State :=
  let t := s.t
  let s := t.held.inputs.foldl (fun s i =>
    s.logRecord l.id ([2, BitVec.ofNat 8 i.1] ++ List.replicate 6 0 ++ leBytes 8 t.id.idx ++ leBytes 8 i.2.1.toNat ++
      leBytes 8 i.2.2.toNat)) s
  s.logRecord l.id ([1] ++ List.replicate 7 0 ++ leBytes 8 t.id.idx ++ leBytes 8 t.held.stamp.toNat ++
    leBytes 8 t.held.digest.toNat ++ leBytes 8 t.held.attempts ++ leBytes 8 l.commits)

/-- Whether the current ordered task's inputs are final (R381): it is the oldest, so that every publication before it has ended. -/
def finalInputs (s : State) : Bool := s.isOldest

/-- The end of the current ordered task's publication, once its commands have run (R377 steps 2 to 4): the younger tasks that have read
one of its lines start again; then the next task may commit, or a task that has published early goes on (R378). -/
def endPublication (s : State) : State :=
  match s.t.held.publishing, s.launchOf s.t.id.launch with
  | some lines, some l =>
    if s.t.eng.cmds.any (·.pub) then s
    else
      let hit := s.readYounger lines
      let n := (s.tasks.filter hit).length
      let s := ((s.keepJoins hit).onTasks hit (s.restart l)).onT fun t => { t with held.publishing := none }
      let s := s.count s.t.id.ctx 17 n
      if s.t.ctl.st = .halted then
        let s := (s.onT fun t => { t with held.committed := true }).logCommit l
        s.setLaunch l.id fun l => { l with commits := l.commits + 1, digs := l.digs ++ [(s.t.id.idx, s.t.held.digest)] }
      else (s.onT fun t => { t with pipe.grp := Group.idle }).count s.t.id.ctx 18 1
  | _, _ => s

/-- The commit of the current halted task, the oldest (R377); a source of its held set that cannot be read stops it, still halted
(R366). -/
def commitTask (s : State) : State :=
  match s.publishHeld with
  | .error tr => s.onT fun t => { t.stopNow tr with pipe.kept := some { Group.idle with halting := true } }
  | .ok s => s.endPublication

/-- A group of the current task that would overflow the held set (R364): a redundant task takes an implicit release in
its place, an ordered one stalls in waiting cycles until it is the oldest (R378). -/
def heldStall (s : State) : State :=
  if s.t.id.ordered then s
  else match s.t.held.meet with
    | some _ => s.meetTick
    | none => s.meetAt .implicit (groupsIssued s.t + 1)

end State

/-- ORDERED_COMMIT (R377): the halted task on a core begins its commit when it is the oldest, or ends it when its commands have run. -/
def execOrderedCommit (core : Nat) (s : State) : Out :=
  .next (s.atCore core fun s =>
    if s.t.ctl.st = .halted ∧ s.t.held.publishing.isSome then s.endPublication
    else if s.t.id.ordered ∧ s.t.ctl.st = .halted ∧ !s.t.held.committed ∧ s.t.id.idx < s.t.id.cnt ∧ s.isOldest then s.commitTask
    else s)

/-- ORDERED_EARLY_PUBLICATION (R378): a stalled task that is the oldest begins to publish as a commit does (R262, R377), or goes on when its
commands have run. -/
def execOrderedEarlyPublication (core : Nat) (s : State) : Out :=
  .next (s.atCore core fun s =>
    if s.t.ctl.st ≠ .halted ∧ s.t.held.publishing.isSome then s.endPublication
    else if s.t.id.ordered ∧ s.t.pipe.grp.back = some .heldSet ∧ s.isOldest then
      match s.publishHeld with
      | .error tr => s.onT (·.stopNow tr)
      | .ok s => s.endPublication
    else s)

end Sys2Proof.Machine
end

