-- ==== Sys2Proof/Machine/CoreEvents.lean ====
section
/-! DEFINITION. The events of one core between its issues: results, replies, walks, the ends of waits, and the stops that
fall between two core cycles (03 R70 to R73, 06 R145 to R149, 12 R252, 18 R309, R310, 20 R328, 22 R346). -/

namespace Sys2Proof.Machine

namespace CoreTask

/-- Whether a task issues or waits. -/
def going (t : CoreTask) : Bool := t.ctl.st = .running || t.ctl.st = .waiting

/-- The results due in the next core cycle become visible (R70). -/
def landDue (t : CoreTask) : CoreTask :=
  let due := t.pipe.pend.filter fun p => p.left ≤ 1
  let t := { t with pipe.pend := t.pipe.pend.filter fun p => 1 < p.left }
  let t := (due.filter fun p => p.eff.isCtl).foldl landOne t
  ((due.filter fun p => !p.eff.isCtl).foldl landOne t).settleLoads.closeCycle

/-- The n-th outstanding load's reply arrives: written, held for an earlier result or a freeze, or a memory error (R72,
R73, R195). -/
def reply (t : CoreTask) (n : Nat) : CoreTask :=
  match t.pipe.loads[n]? with
  | none => t
  | some l =>
    match l.bad with
    | some a =>
      let tr : Trap := { cause := 0x0E, sub := 0, cls := 0, val := BitVec.ofNat 64 a, reason := 0 }
      if t.ctl.due.contains tr then t else { t with ctl.due := t.ctl.due ++ [tr] }
    | none =>
      let t := { t with pipe.loads := t.pipe.loads.set n { l with arrived := true } }
      if t.pipe.freeze = 0 then t.settleLoads else t

/-- What a freeze waits for (R345): 2 a fixed-latency result, 1 a scoreboarded reply. -/
def freezeSource (t : CoreTask) : Nat := if t.resultLate then 2 else 1

/-- The words of the group that starts at an index, up to its stop bit: none when it runs beyond the instruction memory or
the placed code (R65, R129 step 1). -/
def groupAt (t : CoreTask) : Nat → Nat → Option (List Word)
  | 0, _ => none
  | fuel + 1, k =>
    if 16384 ≤ k ∨ t.code.codeLen ≤ k then none
    else
      let w := mget 0 t.code.imem k
      if stopOf w then some [w] else (t.groupAt fuel (k + 1)).map (w :: ·)

/-- The group at the program counter, decoded (R129). Where there is no syllable, past 16,383, the class reported is 0 (DESIGN CHOICE;
notes/assumptions 46). -/
def fetchGroup (t : CoreTask) : Except GroupFault (List Word × List Syl) :=
  match t.groupAt 16385 t.r.pc with
  | none => .error ⟨.beyondCode, classOf (mget 0 t.code.imem t.r.pc)⟩
  | some ws => (decodeGroup (t.r.fcr.toNat % 4 = 2) ws).map (ws, ·)

/-- Whether a syllable that will issue reads or writes a register whose load has not been answered (R72). A syllable that its guard
turns off, and every row of a tile named by tN.ij, count too (DESIGN CHOICE; notes/assumptions 45). -/
def awaitsLoad (t : CoreTask) : Bool :=
  let late := t.pipe.loads.filter fun l => !l.arrived
  if late.isEmpty then false
  else match t.fetchGroup with
    | .error _ => false
    | .ok (_, g) => (g.filter fun y => !bitOf t.pipe.suppress y.cls).any fun y =>
        let u := uses (t.r.fcr.toNat % 4 = 2) y.instr
        late.any fun l => clash (t.level, u.reads ++ u.writes) (effDest (.load l.req l.vals))

/-- Whether the task will issue a group in its next core cycle. -/
def issuing (t : CoreTask) : Bool :=
  t.ctl.st = .running && t.pipe.waits.isEmpty && t.pipe.hold = 0 && t.held.publishing.isNone

/-- The next tick of a core's logical clock; leases that it passes end (R252). -/
def tickClock (t : CoreTask) : CoreTask :=
  { t with lm.clock := t.lm.clock + 1, lm.leases := t.lm.leases.filter fun l => t.lm.clock + 1 ≤ l.last }

end CoreTask

namespace State

/-! ## Stops between cycles (R346) -/

/-- The stop of a task: between two core cycles, or in a cycle whose results are visible already (`landed`). -/
def stopIn (landed : Bool) (tr : Trap) (t : CoreTask) : CoreTask :=
  if !landed then t.stopNow tr
  else if t.pipe.waits.isEmpty then (CoreTask.landN t.pipe.hold t).stopBetween tr
  else t.stopBetween tr

/-- A stop of the current task between its groups or at its waiting group, after a timeout that was spent by then and a barrier that it has
left (R147, R345). A
task that waits for its native call stops as the definition that the call hands over to, at the boundary its unit reaches
(R232). -/
def stopTask (s : State) (tr : Trap) (landed : Bool) : State :=
  let s := s.expireWaits.leaveBar
  (if s.t.pipe.waits.contains .native && !s.t.handedOver then s.handOver (Config.unitProgress (s.now * 1024 + s.t.id.core)) landed else s).onT (stopIn landed tr)

/-- The breakpoint that matches the group the current task is about to issue (R352). -/
def breakpoint (s : State) : Option Nat :=
  if s.isTarget s.t && s.t.pipe.waits.isEmpty && s.t.pipe.hold = 0 && !s.t.pipe.bpSkip then
    (List.range 4).find? fun n =>
      let b := mget 0 s.dbg.bp n
      bitOf b 31 && b.toNat % 2 ^ 14 = s.t.r.pc
  else none

/-- The stop that falls before the current task's next group, or at its waiting group, in the order of R346. A replica
mismatch that its partners found comes after the errors; a debug stop awaits the hold of a transfer, as the breakpoint before it does. -/
def dueStop (s : State) : Option Trap :=
  let t := s.t
  let pick (c : Nat) : Option Trap := t.ctl.due.find? fun tr => tr.cause = c
  let mk (c v : Nat) : Trap := { cause := c, sub := 0, cls := 0, val := BitVec.ofNat 64 v, reason := 0 }
  (pick 0x0E).or ((pick 0x08).or
    ((if 2 ^ 20 ≤ t.pipe.freeze then some (mk 0x0D t.freezeSource) else none).or ((pick 0x11).or
      ((if t.code.interval ≤ t.pipe.interv then some (mk 0x13 t.code.interval) else none).or
        ((s.breakpoint.map fun n => mk 0x10 (2 ^ 32 + n)).or
          (if t.ctl.dbgReq && (!t.pipe.waits.isEmpty || t.pipe.hold = 0) then some (mk 0x10 (2 ^ 33)) else none))))))

/-- Takes the stop that is due, if any. A halted task stops too, and stays halted when it resumes. -/
def takeStop (s : State) (landed : Bool) : State :=
  match s.dueStop with
  | some tr =>
    if s.t.going then s.stopTask tr landed
    else if s.t.ctl.st = .halted ∧ (tr.cause = 0x08 ∨ tr.cause = 0x0E) then
      s.onT fun t => { stopIn landed tr t with pipe.kept := some { Group.idle with halting := true } }
    else s
  | none => s

/-- Whether a task with a stop request is at a pre-emption point (R149). -/
def atPoint (s : State) : Bool :=
  s.t.ctl.stopReq && s.t.going &&
    (if s.t.pipe.waits.isEmpty then s.t.pipe.ppoint && s.t.pipe.hold = 0
     else s.t.pipe.waits.any fun w => match w with | .word .. | .ctr .. | .bar => true | _ => false)

/-- The stop of a task for pre-emption or for another task's trap (R310, R348), with its trace record (R354); a reported stop has its
record with its report. -/
def yieldTask (s : State) (landed : Bool) : State :=
  ((s.stopTask { cause := 0, sub := 0, cls := 0, val := 0, reason := 0 } landed).onT fun t =>
    { t with ctl.st := .stopping, ctl.stopVal := none, ctl.stopReq := false }).traceStop

end State

/-! ## The events -/

/-- RESULT_VISIBLE (R70, R71): the results due next become visible, unless one does not exist yet. Between two compute cycles what they
write is read at once (R251). -/
def execResultVisible (core : Nat) (s : State) : Out :=
  .next (s.atCore core fun s =>
    if s.t.active ∧ s.t.pipe.freeze = 0 ∧ !s.t.resultLate then
      s.onT fun t => if s.between then { t.landDue with lm.undo := t.lm.undo } else t.landDue
    else s)

/-- LOAD_REPLY (R72, R195): the n-th outstanding load of a core is answered. -/
def execLoadReply (core n : Nat) (s : State) : Out :=
  .next (s.atCore core fun s => if s.t.active then s.onT (·.reply n) else s)

/-- TRANSLATION_WALK_COMPLETE (R328, R330): a walk of a core's context ends. A leaf that permits the access fills the
caches, unless an invalidation of the context is in progress; no other entry is cached. It counts as a walk (R356). -/
def execTranslationWalkComplete (core : Nat) (va : Word) (need : Need) (s : State) : Out :=
  .next (match s.taskOn core with
    | none => s
    | some t =>
      let x := t.id.ctx
      if 2 ^ 24 ≤ va.toNat ∧ va.toNat < 2 ^ 48 ∧ (s.cached core x va.toNat).isNone then
        let s := s.count x 14 1
        match s.walk x va.toNat need with
        | .ok l => if (s.ctx x).invBusy then s else s.fillTlb core l
        | .error _ => s
      else s)

/-- FREEZE_TIMEOUT (R73): a freeze of 2^20 compute cycles stops the task. -/
def execFreezeTimeout (core : Nat) (s : State) : Out :=
  .next (s.atCore core fun s => if 2 ^ 20 ≤ s.t.pipe.freeze then s.takeStop false else s)

/-- The waits of a compute cycle are judged once its deliveries are done: none follows before the next cycle (R251). -/
def State.judge (s : State) : State := { s with judged := s.now + 1 }

/-- WAIT_SATISFIED (R145): an armed comparator's condition holds at the end of a compute cycle after the one that armed it (R246, R251). -/
def execWaitSatisfied (core : Nat) (s : State) : Out :=
  .next (s.atCore core fun s =>
    if s.t.ctl.st = .waiting ∧ s.t.pipe.freeze = 0 ∧ s.between then
      (s.endSome fun w => s.armed && match w with | .word .. => true | _ => false).judge
    else s)

/-- WAIT_TIMEOUT (R145): a timeout is spent and its condition does not hold. -/
def execWaitTimeout (core : Nat) (s : State) : Out :=
  .next (s.atCore core fun s => if s.t.ctl.st = .waiting ∧ s.t.pipe.freeze = 0 ∧ s.between then s.expireWaits.judge else s)

/-- WAITC_SATISFIED (R146): a delivery has brought the counter to the threshold. -/
def execWaitcSatisfied (core : Nat) (s : State) : Out :=
  .next (s.atCore core fun s =>
    if s.t.ctl.st = .waiting ∧ s.t.pipe.freeze = 0 ∧ s.between then
      s.endSome fun w => match w with | .ctr .. => true | _ => false
    else s)

/-- FENCE_WAIT_END (R199, R200, R257): what an xfence, rel or wfence waits for holds. -/
def execFenceWaitEnd (core : Nat) (s : State) : Out :=
  .next (s.atCore core fun s =>
    if s.t.ctl.st = .waiting ∧ s.t.pipe.freeze = 0 ∧ s.between then
      s.endSome fun w => match w with | .fence .. | .rel _ | .wfence _ => true | _ => false
    else s)

/-- PREEMPTION_INTERVAL_EXCEEDED (R309): the interval count has reached the declared interval. -/
def execPreemptionIntervalExceeded (core : Nat) (s : State) : Out :=
  .next (s.atCore core fun s =>
    if s.t.going ∧ s.t.code.interval ≤ s.t.pipe.interv then s.takeStop false else s)

/-- PREEMPTION_STOP (R149, R310): a task with a stop request stops at a pre-emption point, after every other stop that is
due (R346). -/
def execPreemptionStop (core : Nat) (s : State) : Out :=
  .next (s.atCore core fun s =>
    if s.atPoint then (if s.dueStop.isSome then s.takeStop false else s.yieldTask false) else s)

/-- LOGICAL_CLOCK_TICK (R252): the logical clock of a core advances. -/
def execLogicalClockTick (core : Nat) (s : State) : Out :=
  .next (s.atCore core fun s => s.onT (·.tickClock))

/-- DEBUG_STOP (R352): the target stops before its next group, or at its waiting group, after every stop that comes first
(R346). -/
def execDebugStop (core : Nat) (s : State) : Out :=
  .next (s.atCore core fun s => if s.t.going ∧ s.t.ctl.dbgReq then s.takeStop false else s)

/-- ADDRESS_BREAKPOINT (R352): the target is about to issue a group with a breakpoint. -/
def execAddressBreakpoint (core : Nat) (s : State) : Out :=
  .next (s.atCore core fun s => if s.t.going ∧ s.breakpoint.isSome then s.takeStop false else s)

end Sys2Proof.Machine
end

