-- ==== Sys2Proof/Machine/Save.lean ====
section
/-! DEFINITION. The task state block, the residual commands, the stop frame area and the held slot as bytes; saving a task,
and what a restored task re-issues (03 R83 to R87, 09 R217, R218, 15 R275, 18 R310, 25 R373). -/

namespace Sys2Proof.Machine

/-! ## Residual commands (R217, R218) -/

/-- The units of a command that are delivered: on the link path, acknowledged. -/
def Cmd.done (c : Cmd) : Nat := if cmdPath c = 4 then c.acked else c.units

/-- Adds a number of strides to an address. -/
def strideBy (a stride : Word) (k : Nat) : Word := a + BitVec.ofNat 64 k * stride

/-- A command rewritten to the bytes not yet delivered: the skip of its word, d0 to d7, n0 to n3 (R217, R218). -/
def residual (c : Cmd) : Nat × List Word × List Word :=
  let u := c.done
  let rowsLeft (k : Nat) : Word := BitVec.ofNat 64 ((c.rows - k) * 2 ^ 40 + c.rowBytes)
  let d7seed : Word := BitVec.ofNat 64 ((c.dv 7).toNat % 2 ^ 32 + c.lfsr.toNat * 2 ^ 32)
  match c.op with
  | .sig | .marr => (0, c.d, c.n)
  | .ixst | .ixend =>
    let per := c.rowChunks
    let k := if per = 0 then 0 else u / per
    let side := if c.op = .ixst then 1 else 0
    (if per = 0 then 0 else u % per, c.d.set side (strideBy (c.dv side) (c.dv (side + 3)) k),
      [c.nv 0 + BitVec.ofNat 64 (4 * k), c.nv 1 - BitVec.ofNat 64 k, c.nv 2, c.nv 3])
  | .cpyp | .cpyu =>
    let per := c.blockCols
    let k := if per = 0 then 0 else u / per
    let (k0, k1) := if c.op = .cpyp then (32 * k, k) else (k, 32 * k)
    let d := ((c.d.set 0 (strideBy (c.dv 0) (c.dv 3) k0)).set 1 (strideBy (c.dv 1) (c.dv 4) k1)).set 2 (rowsLeft (32 * k))
    (if per = 0 then 0 else u % per, if c.quantMode = .sr then d.set 7 d7seed else d, c.n)
  | _ =>
    let per := c.rowChunks
    let k := if per = 0 then 0 else u / per
    let d := ((c.d.set 0 (strideBy (c.dv 0) (c.dv 3) k)).set 1 (strideBy (c.dv 1) (c.dv 4) k)).set 2 (rowsLeft k)
    (if per = 0 then 0 else u % per, if c.ret then d.set 7 (c.dv 7 + BitVec.ofNat 64 (k * c.rowBytes)) else d, c.n)

/-- The 72 bytes of a residual command. -/
def residualBytes (c : Cmd) : List Byte :=
  let r := residual c
  leBytes 8 (cmdWord c r.1).toNat ++ r.2.1.flatMap fun w => leBytes 8 w.toNat

/-- The 72 bytes of an accepted native call (R233). -/
def callBytes (c : NativeCall) : List Byte :=
  leBytes 8 ((c.ctr.getD 0) * 2 ^ 56 + c.idx * 2 ^ 26) ++ c.args.flatMap fun w => leBytes 8 w.toNat

/-- Pads bytes with zeros, and cuts them, to a length. -/
def fit (n : Nat) (bs : List Byte) : List Byte := (bs ++ List.replicate (n - bs.length) 0).take n

namespace CoreTask

/-- The residuals of a task, in issue order: not what is held, nor a marr that has arrived (R322). -/
def residuals (t : CoreTask) : List Cmd := t.eng.cmds.filter fun c => !c.held && !marrArrived c

/-- Puts an entry of the engine snapshot in its place by issue order. -/
def insertEntry (a : Nat × Option Cmd × List Byte) : List (Nat × Option Cmd × List Byte) → List (Nat × Option Cmd × List Byte)
  | [] => [a]
  | b :: l => if a.1 < b.1 then a :: b :: l else b :: insertEntry a l

/-- The residuals of a task, commands and accepted calls, in issue order, each with its 72 bytes (R86, R217, R233). -/
def snapshot (t : CoreTask) : List (Nat × Option Cmd × List Byte) :=
  t.eng.natives.foldl (fun l c => insertEntry (c.ord, none, callBytes c) l)
    (t.residuals.map fun c => (c.ord, some c, residualBytes c))

/-- The engine snapshot (R86): at most sixteen residuals. -/
def engineBytes (t : CoreTask) : List Byte := fit 1152 (t.snapshot.flatMap (·.2.2))

/-- The index engine state: the place of its residual in the snapshot, and its n registers (R218). -/
def indexBytes (t : CoreTask) : List Byte :=
  let l := t.snapshot.zipIdx.filterMap fun e =>
    e.1.2.1.bind fun c => if cmdPath c = 3 then some (e.2, (residual c).2.2) else none
  match l.head? with
  | some (k, ns) => fit 64 (leBytes 8 (1 + 2 * k) ++ ns.flatMap fun w => leBytes 8 w.toNat)
  | none => fit 64 []

/-- The bytes of a task's block size: B of R83. -/
def blockSize (t : CoreTask) : Nat := 4096 + 4096 * t.code.nTiles + 8192 * t.code.nAccs

/-- A loop stack of six entries (R84). -/
def loopBytes (l : List LoopEnt) : List Byte :=
  fit 96 (l.reverse.flatMap fun e => leBytes 4 e.count ++ leBytes 4 e.idx ++ leBytes 4 e.first ++ leBytes 4 e.last)

/-- s16 to s31, q0 to q3, the latches and yt of a bank. -/
def bankHigh (b : Bank) : List Byte := (List.range 16).flatMap fun k => leBytes 8 (mget 0 b.s (16 + k)).toNat
def bankRest (b : Bank) : List Byte :=
  ((List.range 4).flatMap fun k => leBytes 8 (mget 0 b.q k).toNat) ++ leBytes 8 b.ya.toNat ++ leBytes 8 b.yb.toNat ++
    leBytes 8 b.ym.toNat ++ leBytes 8 0 ++ leBytes 256 b.yt.toNat

/-- The wait comparators 2 to 7 as they are saved: one for each marr that has no completion word yet (R84, R322). -/
def comparators (t : CoreTask) : List Byte :=
  ((t.eng.cmds.filter fun c => c.op = .marr).take 6).flatMap fun c =>
    (List.range 16).map (Config.comparatorByte (engOffset (c.dv 5)) (c.dv 6).toNat)

/-- The numbers that name a scalar register, a staging register or a row in a snapshot descriptor; which they are is the
implementation's (R85). -/
def sregNo : SReg → Nat
  | .s n => n.val
  | .q n => 32 + n.val
def stageNo : Stage → Nat
  | .d n => n.val
  | .n k => 8 + k.val
  | .g n => 16 + n.val
def rowNo : RowAt → Nat
  | .tile t r => 16 * t + r
  | .h n => 256 + n
  | .yt => 260

def modeNo : RMode → Nat
  | .rne => 0
  | .rtz => 1
  | .sr => 2

/-- The destination of a load (R85). -/
def loadPlace (q : LoadReq) : List Nat :=
  [q.lvl, q.dst.elim 64 sregNo, q.row.elim 512 rowNo, q.pair.elim 512 rowNo, q.lanes.toNat, q.zero.toNat, q.size, q.signed.toNat]

/-- The destination of a result in flight, its kind first (R85). -/
def effPlace : Eff → List Nat
  | .sreg l d y _ => [0, l, d.elim 64 sregNo, y.elim 3 fun y => match y with | .ya => 0 | .yb => 1 | .ym => 2]
  | .pred l k _ => [1, l, k.val]
  | .mask k _ => [2, k.val]
  | .stage r _ => [3, stageNo r]
  | .row l d y m _ => [4, l, rowNo d, y.toNat, m.toNat]
  | .ppac a r _ _ => [5, a.val, r]
  | .accz a f n _ => [6, a.val, f, n]
  | .accrd a r ty m ftz d half _ => [7, a.val, r, encTy ty, modeNo m, ftz.toNat, rowNo d, half.toNat]
  | .accwr a r _ => [8, a.val, r]
  | .accld a f v => [9, a.val, f, v.length]
  | .accst a f n addr => [10, a.val, f, n, addr]
  | .planeBytes addr bs => [17, addr, bs.length]
  | .accexp a _ => [11, a.val]
  | .load q _ | .loadBad q _ => 12 :: loadPlace q
  | .fcr _ => [13]
  | .fsr _ => [14]
  | .fm k _ => [15, k.val]

/-- The payload of a result in flight. -/
def effPayload : Eff → List Byte
  | .sreg _ _ _ v | .mask _ v | .stage _ v | .fm _ v => leBytes 8 v.toNat
  | .pred _ _ b => [BitVec.ofNat 8 b.toNat]
  | .row _ _ _ _ v => leBytes 256 v.toNat
  | .ppac _ _ v e => (v.flatMap fun x => leBytes 8 (lowBits 64 x)) ++ e.flatMap fun x => leBytes 2 (lowBits 16 x)
  | .accz _ _ _ e | .accexp _ e => leBytes 2 e.toNat
  | .accrd _ _ _ _ _ _ _ l => l.flatMap fun x => leBytes 4 x.toNat
  | .accwr _ _ v | .accld _ _ v => v.flatMap fun x => leBytes 8 x.toNat
  | .load q vals => vals.flatMap (leBytes q.size ·)
  | .fcr v => [v.setWidth 8]
  | .fsr v => [v.setWidth 8]
  | .planeBytes _ bs => bs
  | .accst .. | .loadBad .. => []

/-- One entry of the pipeline snapshot: sixteen bytes of descriptor, and the payload rounded up to sixteen (R87). -/
def entryBytes (place : List Nat) (ord left : Nat) (payload : List Byte) : List Byte :=
  (List.range 16).map (Config.entryDescriptor place ord left) ++ fit ((payload.length + 15) / 16 * 16) payload

/-- The core cycles until the last result that a held reply waits for is visible (R72). -/
def replyLeft (t : CoreTask) (l : Load) : Nat :=
  (t.pipe.pend.filter fun p => p.ord < l.ord && clash (effDest p.eff) (effDest (.load l.req l.vals))).foldl (fun m p => max m p.left) 0

/-- The entries of the pipeline snapshot: results in flight in issue order, each with the flags it raises and those it may record, then
the replies held for them, each with the cycles left to the result it waits for, and the loads that are still to be answered, which have
no payload (R85, R171, R195; DEDUCED; notes/assumptions 47). -/
def snapshotEntries (t : CoreTask) : List (List Byte) :=
  ((t.pipe.pend.filter fun p => !p.eff.isCtl).map fun p =>
    entryBytes (effPlace p.eff ++ [p.flags.toNat, p.record.toNat]) p.ord p.left (effPayload p.eff)) ++
    t.pipe.loads.map fun l => entryBytes ((if l.arrived then 12 else 16) :: loadPlace l.req ++ l.req.addrs) l.ord
      (if l.arrived then t.replyLeft l else 0) (if l.arrived then effPayload (.load l.req l.vals) else [])

/-- The pending control writes of the snapshot header (R79, R85). -/
def snapshotWrites (t : CoreTask) : List (Nat × Nat × Nat × Nat) :=
  (t.pipe.pend.filter (·.eff.isCtl)).map fun p => ((effPlace p.eff).getD 0 0 + (effPlace p.eff).getD 1 0, leNat (effPayload p.eff), p.left, p.ord)

/-- The fixed part of the task state block (R84); `st` is the task state written. The comparators of a wait and of a barrier, 0 and 1,
are written as zero: the group waits again when it issues again (DESIGN CHOICE; notes/assumptions 47). -/
def blockFixed (t : CoreTask) (st : Nat) : List Byte :=
  let words (n : Nat) (f : Nat → Word) : List Byte := (List.range n).flatMap fun k => leBytes 8 (f k).toNat
  let halves (n : Nat) (f : Nat → BitVec 32) : List Byte := (List.range n).flatMap fun k => leBytes 4 (f k).toNat
  let header := 1 + t.code.nTiles / 4 * 2 ^ 16 + (2 ^ t.code.nAccs - 1) * 2 ^ 20 + t.level * 2 ^ 24 +
    t.r.b.loops.length * 2 ^ 27 + t.r.calls.length * 2 ^ 30 + st * 2 ^ 35
  fit 64 (leBytes 8 header) ++
  (words 16 (fun k => mget 0 t.r.s k) ++ bankHigh t.r.b) ++ bankRest t.r.b ++
  ((List.range 4).flatMap fun k => leBytes 256 (mget 0 t.r.h k).toNat) ++
  ((List.range 8).map fun k => BitVec.ofNat 8 (t.pred (fin 8 k)).toNat) ++
  words 4 (fun k => mget 0 t.r.mks k) ++ (leBytes 4 t.r.fcr.toNat ++ leBytes 4 t.r.fsr.toNat) ++
  fit 16 ((List.range 4).flatMap fun k => leBytes 2 (mget 0 t.r.accExp k).toNat) ++
  words 8 (fun k => mget 0 t.r.fm k) ++ halves 16 (fun k => mget 0 t.r.w k) ++
  words 8 (fun k => mget 0 t.r.dreg k) ++ words 4 (fun k => mget 0 t.r.nreg k) ++ words 8 (fun k => mget 0 t.r.greg k) ++
  (leBytes 8 t.r.xpc.toNat ++ leBytes 8 t.r.xval.toNat ++ leBytes 8 t.r.xcause.toNat ++ leBytes 8 t.r.xmask.toNat) ++
  loopBytes t.r.b.loops ++ fit 128 (t.r.calls.reverse.flatMap fun e => leBytes 8 (e.ret + e.depth * 2 ^ 16 + e.level * 2 ^ 19)) ++
  fit 32 (t.r.frames.reverse.flatMap fun f => leBytes 4 f.idx ++ leBytes 4 f.ret) ++
  (fit 32 [] ++ fit 96 t.comparators) ++
  halves 64 (fun k => t.lfsrOf k) ++ t.engineBytes ++ t.indexBytes ++
  (leBytes 8 t.snapshotEntries.length ++ (List.range 120).map (Config.snapshotWrites t.snapshotWrites)) ++ leBytes 8 t.r.lcycle.toNat ++ fit 56 []

/-- The tiles and accumulator tiles that follow (R83). -/
def blockRows (t : CoreTask) : List Byte :=
  ((List.range (16 * t.code.nTiles)).flatMap fun k => leBytes 256 (mget 0 t.r.tiles k).toNat) ++
  (List.range (1024 * t.code.nAccs)).flatMap fun k => leBytes 8 (mget 0 t.r.acc k).toNat

/-- The bank of routine level k (R87). -/
def bankAt (t : CoreTask) (k : Nat) : Bank :=
  if k = t.level then t.r.b
  else match t.r.frames[t.level - 1 - k]? with
    | some f => if k < t.level then f.bank else Bank.zero
    | none => Bank.zero

/-- The caller's own fcr and fm that the bank of a routine level keeps, where an asynchronous call was handed over into it (R231). -/
def ownCtl (t : CoreTask) (k : Nat) : List Byte :=
  match if 0 < k ∧ k ≤ t.level then (t.r.frames[t.level - k]?).bind (·.saved) else none with
  | some (fcr, fm) => leBytes 8 fcr.toNat ++ (List.range 8).flatMap fun j => leBytes 8 (mget 0 fm j).toNat
  | none => []

/-- The stop frame area (R87): the snapshot's entries, the swizzle tags, and the banks of levels 0 to 3. Entries that take more than the
24,320 bytes are cut there, and a bank's kept control registers follow its loops (the spec gives neither: DESIGN CHOICE;
notes/assumptions 47). -/
def frameArea (t : CoreTask) : List Byte :=
  fit 24320 t.snapshotEntries.flatten ++
  ((List.range 256).map fun k =>
    BitVec.ofNat 8 ((mget 0 t.lm.tags (2 * k)).toNat + 16 * (mget 0 t.lm.tags (2 * k + 1)).toNat)) ++
  (List.range 4).flatMap fun k =>
    let b := t.bankAt k
    fit 2048 (bankHigh b ++ bankRest b ++ ((List.range 4).map fun j => BitVec.ofNat 8 (mget false b.p (4 + j)).toNat) ++
      loopBytes b.loops ++ t.ownCtl k)

/-- What goes into a save slot: the block, and the scratchpad [0, S) with its stop frame area (R83, R275). -/
def slotBytes (t : CoreTask) : List Byte :=
  t.blockFixed (if t.ctl.st = .faulted then 7 else 6) ++ t.blockRows ++ readBytes t.lm.scratch 0 t.usable ++ t.frameArea

/-- A held slot (R373). -/
def heldSlot (t : CoreTask) : List Byte :=
  let held := t.eng.cmds.filter (·.held)
  fit 64 (leBytes 8 t.held.sectors.length ++ leBytes 8 held.length ++ leBytes 8 t.held.releases ++ leBytes 8 t.held.attempts) ++
  fit (1024 * 48) (t.held.sectors.flatMap fun e =>
    leBytes 8 (32 * e.1) ++ leBytes 4 e.2.mask.toNat ++ leBytes 4 0 ++ leBytes 32 e.2.data.toNat) ++
  fit (16 * 104) (held.flatMap fun c =>
    residualBytes c ++ if cmdPath c = 3 then (residual c).2.2.flatMap fun w => leBytes 8 w.toNat else fit 32 []) ++
  List.replicate 14656 0

/-- The held set as the bytes of a held slot give it: its sectors, its counts, and the words of its commands in issue order; what a
held command holds beside them stays as it was (R373; notes/assumptions 15). -/
def readHeld (t : CoreTask) (bs : List Byte) : CoreTask :=
  let word (off n : Nat) : Nat := leNat ((bs.drop off).take n)
  let sectors : FMap HeldSector := (List.range (min 1024 (word 0 8))).foldl (fun m k =>
    mset ⟨0, 0⟩ m (word (0x40 + 48 * k) 8 / 32)
      ⟨BitVec.ofNat 32 (word (0x48 + 48 * k) 4), BitVec.ofNat 256 (word (0x50 + 48 * k) 32)⟩) []
  let back (c : Cmd) : Cmd :=
    match (t.eng.cmds.filter (·.held)).findIdx? fun o => o.ord = c.ord with
    | none => c
    | some k =>
      let at_ (j : Nat) : Word := BitVec.ofNat 64 (word (0xC040 + 104 * k + 8 * j) 8)
      { c with d := (List.range 8).map fun j => at_ (1 + j),
               n := if cmdPath c = 3 then (List.range 4).map fun j => at_ (9 + j) else c.n }
  { t with held.sectors := sectors, held.releases := word 16 8, held.attempts := word 24 8,
           eng.cmds := t.eng.cmds.map fun c => if c.held then back c else c }

/-- The task as it is held saved: no command runs. -/
def asSaved (t : CoreTask) : CoreTask :=
  { t with ctl.st := .saved, ctl.stopReq := false, eng.cmds := t.eng.cmds.map fun (c : Cmd) => { c with running := false } }

/-- A core whose task has left it: its lease cache, its clock and its plane engine's reckoning stay. -/
def vacate (t : CoreTask) : CoreTask :=
  let e := CoreTask.empty t.id.core
  { e with lm := { e.lm with leases := t.lm.leases, clock := t.lm.clock, planeMark := t.lm.planeMark }, pipe.seen := t.pipe.seen }

end CoreTask

namespace State

/-- The size of one save slot of a launch, and of one with its held slot (R275, R373). -/
def slotSize (l : Launch) : Nat := 4096 + 4096 * l.img.tiles + 8192 * l.img.accs + l.img.share
def slotTotal (l : Launch) : Nat := slotSize l + if 1 < l.copies ∨ l.img.ordered then 0x10000 else 0

/-- The bytes of a launch's save slots alone: T × k slots (R275). -/
def saveNeed (l : Launch) : Nat := l.cnt * l.copies * slotSize l

/-- The virtual address of a task's save slot. -/
def slotAddr (s : State) (l : Launch) (t : CoreTask) : Nat :=
  (s.ctx l.ctx).cSaveBase.toNat + l.save.getD (t.id.idx * l.copies + t.id.replica) 0

/-- Sets the state of one placement of a group. -/
def setGroup (s : State) (id gidx replica : Nat) (f : GroupPl → GroupPl) : State :=
  s.setLaunch id fun l => { l with groups := l.groups.map fun g => if g.idx = gidx ∧ g.replica = replica then f g else g }

/-- Whether a task belongs to a placement. -/
def inGroup (id gidx replica : Nat) (t : CoreTask) : Bool := t.id.launch = id && t.id.gidx = gidx && t.id.replica = replica

/-- Takes tasks off their cores; what they leave for R264 stays with their launches. -/
def clearTasks (s : State) (p : CoreTask → Bool) : State := (s.keepJoins p).onTasks p (·.vacate)

/-- When every task of a placement is saved or halted, and one is saved, the placement is saved and its cluster free (R308,
R310). Halted tasks of it stay halted. -/
def releaseSaved (s : State) (id gidx replica : Nat) : State :=
  let mine := inGroup id gidx replica
  let ts := s.tasks.filter mine
  if (ts.all fun t => t.ctl.st = .halted || t.ctl.st = .saved) && ts.any fun t => t.ctl.st = .saved then
    ({ s with exe.saved := s.exe.saved ++ ts }.clearTasks mine).setGroup id gidx replica fun g => { g with st := .saved }
  else s

/-- Writes the current task's save slot, what a freeze held back applied. The task keeps its core, a task of its group still, until its whole placement is saved
or halted (R308, R310, R314). -/
def saveTask (s : State) : State :=
  match s.launchOf s.t.id.launch with
  | none => s
  | some l =>
    let s := s.onT fun t => if t.heldOff then t else t.settleDrops
    let t := s.t
    let addr := s.slotAddr l t
    let s1 := s.agentWrite l.ctx addr t.slotBytes
    let s2 := if t.holds then s1.agentWrite l.ctx (addr + slotSize l) t.heldSlot else s1
    (s2.onT (·.asSaved)).releaseSaved l.id t.id.gidx t.id.replica

/-- Re-issues the outstanding loads of the current task (R85). A load's value is bound at its issue and stays (R245); one that
met an uncorrectable sector has none yet and is bound again. A load that no longer translates keeps waiting. -/
def reissue (s : State) : State :=
  (List.range s.t.pipe.loads.length).foldl (fun s n =>
    match s.t.pipe.loads[n]? with
    | none => s
    | some l =>
      if l.arrived || l.bad.isNone then s
      else match s.translateUnits 3 .r l.req.addrs with
        | .error _ => s
        | .ok (pas, s) =>
          let (vals, bad, s) := s.loadUnits l.req.size (l.req.addrs.zip pas)
          s.onT fun t => { t with pipe.loads := t.pipe.loads.set n { l with vals, bad } }) s

end State

/-- SAVE_COMPLETE (R310, R373): a stopped task's block, scratchpad and held set are in its save slot. Its running native
call hands over first (R232, R233) and its chunks in flight are acknowledged, so that nothing is delivered twice (R217); a
faulted task is saved once its stop is reported (R348). -/
def execSaveComplete (core : Nat) (s : State) : Out :=
  .next (s.atCore core fun s =>
    let t := s.t
    if (t.ctl.st = .stopping ∨ (t.ctl.st = .faulted ∧ t.ctl.stopVal.isNone)) ∧ (t.eng.natives.isEmpty ∨ t.handedOver) ∧
        t.eng.cmds.all (fun c => cmdPath c != 4 || c.units = c.acked) then s.saveTask
    else s)

end Sys2Proof.Machine
end

