-- ==== Sys2Proof/Machine/Placement.lean ====
section
/-! DEFINITION. Clusters, partitions, save extents, placement rounds, pre-emption requests, and the ends of groups and
launches (15 R273 to R275, 16 R286, 18 R304 to R308, R310, R312, 25 R375, R381). -/

namespace Sys2Proof.Machine

namespace State

def queue (s : State) (q : Nat) : Queue := mget Queue.idle s.exe.queues q

def setQueue (s : State) (q : Nat) (f : Queue → Queue) : State :=
  { s with exe.queues := mmod Queue.idle s.exe.queues q f }

/-- The context a queue is bound to, from configure until the end of its destroy (R268, R273). -/
def queueCtx (s : State) (q : Nat) : Option Nat :=
  (List.range 64).find? fun x => bitOf (s.ctx x).cQueues q && (s.ctx x).st != .free

/-- The context a queue is bound to, while the executive serves its queues: not in a reset or a destroy (R276 step 1). -/
def liveCtx (s : State) (q : Nat) : Option Nat :=
  (s.queueCtx q).filter fun x => (s.ctx x).st != .resetting && (s.ctx x).st != .destroyed

/-- Where slot j of queue q lies in the host-managed range (R279). -/
def slotPos (s : State) (q j : Nat) : Nat := s.exe.lwBase.toNat + 0x1000 * q + 256 * j

def sealed (s : State) (q j : Nat) : Bool := readByte s.mem.hdm (s.slotPos q j + 255) = 0xA5

/-- The state that a queue returns to: that of the record in its hand or of its launch that is placing or running, else idle, or
armed where its head slot is sealed (R282, R283). -/
def restState (s : State) (q : Nat) : QueueSt :=
  let open_ := s.exe.launches.filter fun l => l.q = q
  match (s.queue q).record.head? with
  | some 1 => .placing
  | some 3 => .parked
  | some _ => .waiting
  | none =>
    if open_.any fun l => l.st = .placing then .placing
    else if open_.any fun l => l.st = .running then .running
    else if s.sealed q (s.queue q).head then .armed else .idle

/-- Puts a queue into an error state; a record in its hand stays there (R282). -/
def errorQueue (s : State) (q : Nat) (err : BitVec 3) (seq : BitVec 32) : State :=
  s.setQueue q fun c => { c with st := .error, err, errSeq := seq, short := false, frames := 0, age := 0 }

/-- Puts a queue into the error state of the record in its hand, which is not executed (R282). -/
def failQueue (s : State) (q : Nat) (err : BitVec 3) (seq : BitVec 32) : State :=
  (s.errorQueue q err seq).setQueue q fun c => { c with record := [] }

/-- Puts a core's task in place of what the core holds. -/
def putTask (s : State) (t : CoreTask) : State :=
  if s.tasks.any fun o => o.id.core = t.id.core then s.onCore t.id.core fun _ => t else { s with rest := s.rest ++ [t] }

/-! ## Clusters (R268, R273) -/

/-- Whether a placement holds a cluster. -/
def holds (g : GroupPl) : Bool :=
  match g.st with
  | .placing | .loaded | .running | .stopping | .faulted => true
  | _ => false

/-- The clusters that groups hold. -/
def busy (s : State) : List Nat :=
  s.exe.launches.flatMap fun l => (l.groups.filter holds).map (·.cluster)

/-- Whether a cluster is in service: it has not failed, with no spare or with one that is still to take its place (R28). -/
def inService (s : State) (c : Nat) : Bool := !s.md.failed.contains c && !s.md.lost.contains c

/-- The clusters in no partition and in service. -/
def pool (s : State) : List Nat :=
  let taken := s.exe.ctxs.flatMap fun e => e.2.clusters
  (List.range 192).filter fun c => !taken.contains c && s.inService c

/-- The free clusters of a context's partition. -/
def freeIn (s : State) (x : Nat) : List Nat :=
  let b := s.busy
  (s.ctx x).clusters.filter fun c => !b.contains c && s.inService c

def partMin (c : Ctx) : Nat := c.cPart.toNat / 256
def partMax (c : Ctx) : Nat := c.cPart.toNat % 256

/-- Inserts a number into a rising list. -/
def insertUp (a : Nat) : List Nat → List Nat
  | [] => [a]
  | b :: l => if a < b then a :: b :: l else if a = b then b :: l else b :: insertUp a l

/-- The clusters of one group's replicas: each the lowest free one on a die that no earlier replica holds (R305). -/
def pickDies : Nat → List Nat → List Nat → Option (List Nat)
  | 0, _, _ => some []
  | k + 1, dies, free =>
    match free.find? fun c => !dies.contains (c / 24) with
    | some c => (pickDies k (dies ++ [c / 24]) (free.filter (· ≠ c))).map (c :: ·)
    | none => none

/-- The groups of one round with their placements and clusters, in order, as many as fit (R304). -/
def pickRound (free : List Nat) : List (List GroupPl) → List (GroupPl × Nat)
  | [] => []
  | g :: gs =>
    match pickDies g.length [] free with
    | some cs => g.zip cs ++ pickRound (free.filter fun c => !cs.contains c) gs
    | none => []

/-- The clusters of the pool that a round of groups takes beside free ones, in order, as many groups as `room` more clusters
allow; replicas need distinct dies (R304, R305). -/
def pickPool (pool : List Nat) : Nat → List Nat → List (List GroupPl) → List Nat
  | _, _, [] => []
  | room, free, g :: gs =>
    match pickDies g.length [] free with
    | none => []
    | some cs =>
      let new := cs.filter pool.contains
      if new.length ≤ room then new ++ pickPool pool (room - new.length) (free.filter fun c => !cs.contains c) gs else []

/-- Gives a context clusters of the pool for a round of groups, within its limits; a context that is not resident becomes so
with its fewest clusters at least (R273). -/
def grow (s : State) (x : Nat) (sets : List (List GroupPl)) : State :=
  let c := s.ctx x
  let pool := s.pool
  let new := pickPool pool (partMax c - c.clusters.length) (s.freeIn x ++ pool) sets
  let take (l : List Nat) : State :=
    s.setCtx x fun c => { c with clusters := l.foldl (fun l a => insertUp a l) c.clusters, st := .resident }
  if c.st = .resident then (if new.isEmpty then s else take new)
  else if (c.st = .configured ∨ c.st = .saved) ∧ partMin c ≤ pool.length then
    take (new ++ ((pool.filter fun a => !new.contains a).take (partMin c - new.length)))
  else s

/-! ## Save slots (R275) -/

/-- The first free place of the save area for so many bytes. -/
def fitExtent (len need : Nat) (used : List (Nat × Nat)) : Option Nat :=
  let starts := 0 :: used.map fun u => u.1 + u.2
  let good (a : Nat) : Bool := a + need ≤ len && used.all fun u => a + need ≤ u.1 || u.1 + u.2 ≤ a
  starts.foldl (fun (o : Option Nat) a => if good a then some (o.elim a (min a)) else o) none

/-- Free places for n slots of one size, the lowest places that fit (DESIGN CHOICE: R275 names none; notes/assumptions 20); none where the free part of the area holds fewer. -/
def fitSlots (len size : Nat) : Nat → List (Nat × Nat) → Option (List Nat)
  | 0, _ => some []
  | n + 1, used =>
    match fitExtent len size used with
    | none => none
    | some a => (fitSlots len size n ((a, size) :: used)).map (a :: ·)

/-- The slots of a context's save area in use, each with its size. -/
def slotsInUse (s : State) (x : Nat) : List (Nat × Nat) :=
  (s.exe.launches.filter fun l => l.ctx = x).flatMap fun l => l.save.map fun a => (a, slotTotal l)

/-- Places for the save slots of a launch: those it has, or free ones (R275). -/
def slotsFor (s : State) (l : Launch) : Option (List Nat) :=
  if l.placedOnce then some l.save
  else fitSlots (s.ctx l.ctx).cSaveLen.toNat (slotTotal l) (l.cnt * l.copies) (s.slotsInUse l.ctx)

/-! ## The end of a launch (R283, R317) -/

/-- Whether an open launch uses a cached image. -/
def imageInUse (s : State) (x : Nat) (e : CachedImage) : Bool :=
  s.exe.launches.any fun l => l.ctx = x && l.image = e.base && l.img.gen = e.gen

/-- Drops the entries of a context's cache that are superseded and that no open launch uses (R302). -/
def dropOld (s : State) (x : Nat) : State :=
  if (s.ctx x).cache.any fun e => e.old && !s.imageInUse x e then
    s.setCtx x fun c => { c with cache := c.cache.filter fun e => !e.old || s.imageInUse x e }
  else s

/-- Ends a launch: its tasks leave their cores, its saved tasks and its milestones are dropped, and a superseded image that it
alone used leaves the cache. -/
def endLaunch (s : State) (id : Nat) : State :=
  let ctxs := (s.exe.launches.filter fun l => l.id = id).map (·.ctx)
  let s := (s.clearTasks fun t => t.id.launch = id).freeMiles id
  ctxs.foldl dropOld
    { s with exe.saved := s.exe.saved.filter fun t => t.id.launch ≠ id,
             exe.launches := s.exe.launches.filter fun l => l.id ≠ id }

/-- Ends a launch without a completion signal; its queue enters an error state (R282, R348). -/
def failLaunch (s : State) (l : Launch) (err : BitVec 3) : State := (s.endLaunch l.id).errorQueue l.q err l.seq

/-- A context whose last launch has retired and whose queues hold no sealed record gives its partition up (R273). -/
def settleCtx (s : State) (x : Nat) : State :=
  let c := s.ctx x
  let sealedAny := (List.range 64).any fun q => bitOf c.cQueues q && (List.range 16).any (s.sealed q)
  if c.st = .resident ∧ !(s.exe.launches.any fun l => l.ctx = x) ∧ !sealedAny then
    s.setCtx x fun c => { c with st := .configured, clusters := [], evict := false }
  else s

/-! ## Stop requests (R308, R310, R381) -/

/-- Takes an ordered task off its core, keeping its timestamp and its abort count for its next start (R377, R381). -/
def abortOrdered (s : State) (t : CoreTask) : State :=
  let mark : CoreTask := { CoreTask.empty t.id.core with
    id := t.id, ctl := { (CoreTask.empty 0).ctl with dbgReq := t.ctl.dbgReq }, held := { (CoreTask.empty 0).held with stamp := t.held.stamp, attempts := t.held.attempts + 1 } }
  let s := { s with exe.saved := s.exe.saved ++ [mark] }.clearTasks fun o => o.id.core = t.id.core
  (s.setGroup t.id.launch t.id.gidx t.id.replica fun g => { g with st := .unplaced }).count t.id.ctx 17 1

/-- The debug stops asked of tasks that are given up, to be loaded again, still stand (R352). -/
def askAgain (s : State) (p : CoreTask → Bool) : State :=
  { s with dbg.asked := (s.dbg.asked ++
      ((s.tasks ++ s.exe.saved).filter fun t => p t && t.ctl.dbgReq && t.r.lcycle = 0).map (·.id.replica)).eraseDups }

/-- Puts a group that has not run in this round back: to unplaced, or to saved where it was to be restored (R308). -/
def unplace (s : State) (l : Launch) (g : GroupPl) : State :=
  let mine := inGroup l.id g.idx g.replica
  let back := s.tasks.filter fun t => mine t && t.r.lcycle != 0
  let restored := !back.isEmpty
  let keep := if restored then (s.tasks.filter mine).map (fun t => if t.ctl.st = .halted then t else t.asSaved) else []
  ({ s.askAgain mine with exe.saved := s.exe.saved ++ keep }.clearTasks mine).setGroup l.id g.idx g.replica fun g =>
    { g with st := if restored then .saved else .unplaced }

/-- Posts a stop request to a group, all its replicas (R310). -/
def stopGroup (s : State) (l : Launch) (gidx : Nat) : State :=
  (l.groups.filter fun g => g.idx = gidx).foldl (fun s g =>
    let mine := inGroup l.id g.idx g.replica
    match g.st with
    | .placing | .loaded => s.unplace l g
    | .running =>
      let oldest := l.nextCommit = gidx
      if l.img.ordered ∧ !oldest then
        (s.tasks.filter fun t => mine t && !t.held.committed).foldl (fun s t => s.abortOrdered t) s
      else
        (s.onTasks (fun t => mine t && t.going) fun t => { t with ctl.stopReq := true }).setGroup l.id g.idx g.replica
          fun g => { g with st := .stopping }
    | _ => s) s

/-- Stops every group of a launch. -/
def stopLaunch (s : State) (l : Launch) : State :=
  ((l.groups.filter fun g => holds g).map (·.idx)).eraseDups.foldl (fun s g => s.stopGroup l g) s

/-! ## Settling (R264, R283, R308) -/

/-- Whether a task's engine paths have drained (R264). -/
def drained (s : State) (t : CoreTask) : Bool :=
  t.eng.cmds.isEmpty && t.eng.natives.isEmpty &&
    (!t.pipe.pend.any fun p => match p.eff with | .accst .. => true | _ => false) &&
    !(s.tasks.any fun o => replicas t o && o.eng.cmds.any (·.pub))

/-- Retires a placement whose every task has halted and drained, or has committed in an ordered launch; one with a saved task
is saved once the others are saved or halted (R308). -/
def settleGroup (s : State) (l : Launch) (g : GroupPl) : State :=
  let mine := inGroup l.id g.idx g.replica
  let ts := s.tasks.filter mine
  let excess (t : CoreTask) : Bool :=
    t.ctl.st = .halted && s.drained t && (!l.img.ordered || t.held.committed || l.cnt ≤ t.id.idx)
  if (g.st = .running ∨ g.st = .stopping ∨ g.st = .faulted) ∧ ts.any fun t => t.ctl.st = .saved then
    s.releaseSaved l.id g.idx g.replica
  else if (g.st = .running ∨ g.st = .stopping) ∧ ts.all excess then
    let join := ts.foldl (fun m t => t.eng.linkWins.foldl (fun m w => max m w.2) m) 0
    let clock := ts.foldl (fun m t => max m t.lm.clock) 0
    ((s.clearTasks mine).setGroup l.id g.idx g.replica fun g => { g with st := .retired }).setLaunch l.id fun l =>
      { l with joinBy := max l.joinBy join, clock := max l.clock clock }
  else s

/-- Whether every task of a launch has halted. -/
def allHalted (s : State) (l : Launch) : Bool :=
  l.groups.all fun g => g.st = .retired ||
    (g.st = .running && (s.tasks.filter (inGroup l.id g.idx g.replica)).all fun t => t.ctl.st = .halted)

/-- Brings a launch's groups, its state and its queue up to date. -/
def settleLaunch (s : State) (id : Nat) : State :=
  match s.launchOf id with
  | none => s
  | some l =>
    let s := l.groups.foldl (fun s g => s.settleGroup l g) s
    match s.launchOf id with
    | none => s
    | some l =>
      if l.st = .running ∧ s.allHalted l then
        let s := s.setLaunch id fun l => { l with st := .draining }
        if (s.queue l.q).st = .running then s.setQueue l.q fun c => { c with st := .draining } else s
      else s

/-- Evicts a context: every group of it stops and it will be saved (R273). -/
def evict (s : State) (x : Nat) : State :=
  (s.exe.launches.filter fun l => l.ctx = x).foldl (fun s l => s.stopLaunch l)
    (s.setCtx x fun c => { c with evict := true })

/-- A resident context whose partition is below its limit is saved (R274). -/
def holdMin (s : State) (x : Nat) : State :=
  let c := s.ctx x
  if c.st = .resident ∧ !c.evict ∧ c.clusters.length < partMin c then s.evict x else s

/-- An evicted context whose groups have all left their clusters is saved (R273); a failed cluster that no group holds leaves its
partition, and a partition above its limit gives free clusters back (R274). -/
def settleParts (s : State) (x : Nat) : State :=
  let c := s.ctx x
  let busy := s.busy
  if c.st ≠ .resident then s
  else if c.evict ∧ !(c.clusters.any busy.contains) then
    (s.substituteCtx x).setCtx x fun c => { c with st := .saved, clusters := [], evict := false }
  else
    let s := s.setCtx x fun c => { c with clusters := c.clusters.filter fun k => busy.contains k || !s.md.failed.contains k }
    let s := s.holdMin x
    let excess := (s.ctx x).clusters.length - partMax c
    let drop := ((s.freeIn x).reverse).take excess
    let s := s.setCtx x fun c => { c with clusters := c.clusters.filter fun k => !drop.contains k }
    s.settleCtx x

def settle (s : State) : State :=
  let s := (s.exe.launches.map (·.id)).foldl settleLaunch s
  (List.range 64).foldl settleParts s

/-! ## A placement round (R286, R297, R304, R306 step 1) -/

/-- The 8-byte words of a table, or none where one cannot be read. -/
def tableWords (s : State) (x addr n : Nat) : Option (List Word) :=
  (s.agentRead x addr (8 * n)).map fun bs => wordsOf n bs

/-- Inserts a task into the commit order (R375). -/
def insertOrder (a : Word × Nat) : List (Word × Nat) → List (Word × Nat)
  | [] => [a]
  | b :: l => if a.1.toNat < b.1.toNat ∨ (a.1 = b.1 ∧ a.2 < b.2) then a :: b :: l else b :: insertOrder a l

/-- The commit order of a launch (R375): empty without a timestamp table, none where the table cannot be read. -/
def commitOrder (s : State) (l : Launch) : Option (List (Word × Nat)) :=
  match l.stamps with
  | none => some []
  | some a => (s.tableWords l.ctx a l.cnt).map fun ws => ws.zipIdx.foldl (fun o w => insertOrder w o) []

/-- The values of a launch's relocations, none where a word of its parameters cannot be read (R297). -/
def relocValues (s : State) (l : Launch) (groups : Nat) : Option (List Word) :=
  (l.img.relocs.map (s.relocValue l.ctx l.params l.cnt (l.img.groupSize * groups))).foldr
    (fun v r => match v, r with | some v, some l => some (v :: l) | _, _ => none) (some [])

/-- What the first placement fixes: the timestamps, the relocation values, the save slots, the log header (R275, R297, R375,
R380). A timestamp that cannot be read is queue error 7, a parameter word error 4 with the report of cause 8, at the address and with the generation that the open launch
holds (R282, R297, R300, R303). -/
def firstPlacement (s : State) (l : Launch) (groups : Nat) (save : List Nat) : Except State State :=
  match s.commitOrder l, s.relocValues l groups with
  | none, _ => .error (s.failLaunch l 7)
  | _, none => .error ((s.writeReport l.ctx (l.img.report.toNat, l.img.gen) (.error (8, 0))).failLaunch l 4)
  | some order, some vals =>
    let s := s.setLaunch l.id fun l =>
      { l with vals, order, placedOnce := true, save, mapCluster := s.md.mapCluster, mapSlice := s.md.mapSlice }
    .ok (match l.log with
    | some (addr, _) =>
      if s.mapped l.ctx addr 64 .w then
        (s.agentWrite l.ctx addr (leBytes 8 1 ++ leBytes 8 (2 ^ 64 - 1) ++ List.replicate 48 0)).setLaunch l.id fun l =>
          { l with logHead := 64 }
      else s.setLaunch l.id fun l => { l with logLost := true }
    | none => s)

/-- A core that has held no task since reset: its logical clock has ticked once in each 1,024 of its cycles (R252). -/
def unusedCore (s : State) (core : Nat) : CoreTask :=
  let t := CoreTask.empty core
  { t with lm.clock := s.now / 1024 }

/-- A saved task with its held set read back from its held slot (R373); where the slot can no longer be read it stays as it was. -/
def restoreHeld (s : State) (l : Launch) (t : CoreTask) : CoreTask :=
  if t.holds then
    match s.agentRead l.ctx (s.slotAddr l t + slotSize l) 0xC6C0 with
    | some bs => t.readHeld bs
    | none => t
  else t

/-- Loads or restores one placement onto its cluster (R301, R306, R307, R310, R312): saved tasks come back, others are loaded.
Every core of the cluster is taken; those the group does not use hold no task. -/
def loadGroup (s : State) (l : Launch) (g : GroupPl) : State :=
  let mine := inGroup l.id g.idx g.replica
  let saved := s.exe.saved.filter fun t => mine t && t.ctl.st != .placed
  let marks := s.exe.saved.filter fun t => mine t && t.ctl.st = .placed
  let same := mget 0 s.exe.lastCtx g.cluster = l.ctx + 1
  let s := (List.range 4).foldl (fun s k =>
    let core := 4 * g.cluster + k
    let old := (s.taskOn core).getD (s.unusedCore core)
    if l.img.groupSize ≤ k then
      (if s.tasks.any fun t => t.id.core = core then
        s.putTask { old.vacate with lm.leases := keepLeases same l.img.share old } else s)
    else match (saved.find? fun t => t.id.cidx = k).map (s.restoreHeld l) with
      | some t =>
        s.putTask { t with id := { t.id with core }, ctl.st := if t.ctl.st = .halted then .halted else .loaded,
                           lm := { t.lm with leases := keepLeases same l.img.share old,
                                             clock := max t.lm.clock (max old.lm.clock s.net.clock), planeMark := old.lm.planeMark },
                           pipe.seen := old.pipe.seen }
      | none =>
        let n := s.loadTask l g k old
        let m := marks.find? fun t => t.id.cidx = k
        let stamp : Word := if l.order.isEmpty then BitVec.ofNat 64 n.id.idx
          else (l.order.find? fun o => o.2 = n.id.idx).elim 0 (·.1)
        let asked := s.isTarget n && s.dbg.asked.contains g.replica
        { s.putTask { n with held.stamp := stamp, held.attempts := m.elim 0 (·.held.attempts),
                             ctl.dbgReq := asked || m.any (·.ctl.dbgReq) } with
          dbg.asked := if asked then s.dbg.asked.filter (· ≠ g.replica) else s.dbg.asked }) s
  { s with exe.saved := s.exe.saved.filter fun t => !mine t,
           exe.lastCtx := mset 0 s.exe.lastCtx g.cluster (l.ctx + 1),
           md.power := mset .idle s.md.power g.cluster .active }

/-- The groups that may be placed, each as its placements that are not retired, in the order of a round: ascending, or in
commit order; one at a time in a serial run (R304, R375, R379). -/
def toPlace (l : Launch) : List (List GroupPl) :=
  let idxs := (l.groups.map (·.idx)).eraseDups
  let idxs := if l.img.ordered ∧ !l.order.isEmpty then (l.order.map (·.2)).filter idxs.contains else idxs
  let ready := idxs.filterMap fun i =>
    let ps := l.groups.filter fun g => g.idx = i && g.st != .retired
    if !ps.isEmpty && ps.all fun g => g.st = .unplaced || g.st = .saved then some ps else none
  if l.serial then
    (if l.groups.any holds then [] else (ready.filter fun ps => ps.any fun g => g.idx = l.nextCommit).take 1)
  else ready

/-- Whether a launch may have a round placed now. -/
def placeable (s : State) (l : Launch) : Bool :=
  let st := (s.ctx l.ctx).st
  (st = .configured || st = .resident || st = .saved) && !(s.ctx l.ctx).evict && !l.held &&
    !(l.groups.any fun g => g.st = .placing || g.st = .loaded) && !(toPlace l).isEmpty

/-- A placement makes an image the most recently placed of its context's cache (R298). -/
def noteUse (s : State) (x base : Nat) (gen : Word) : State :=
  let mine (e : CachedImage) : Bool := e.base = base && e.gen = gen
  s.setCtx x fun c => { c with cache := (c.cache.filter fun e => !mine e) ++ c.cache.filter mine }

/-- One placement round of a launch (R286, R304): whether it was placed, and the state after. -/
def placeRound (s : State) (l : Launch) : Bool × State :=
  let sets := toPlace l
  match s.slotsFor l with
  | none => (false, s)
  | some slots =>
    let s1 := s.grow l.ctx sets
    let picks := if (s1.ctx l.ctx).st = .resident then pickRound (s1.freeIn l.ctx) sets else []
    if picks.isEmpty then (false, s)
    else
      let n := (picks.map (·.1.idx)).eraseDups.length
      match if l.placedOnce then .ok s1 else s1.firstPlacement l n slots with
      | .error s2 => (true, s2)
      | .ok s2 =>
        let lead (i : Nat) : Option Nat := (picks.find? fun p => p.1.idx = i && p.1.replica = 0).map (·.2)
        let s3 := picks.foldl (fun s p => s.setGroup l.id p.1.idx p.1.replica fun g =>
          { g with st := .placing, cluster := p.2, first := g.first.or (lead g.idx) }) s2
        match s3.launchOf l.id with
        | none => (true, s3)
        | some l3 =>
          (true, (l3.groups.filter fun g => g.st = .placing).foldl (fun s g => s.loadGroup l3 g) (s3.noteUse l.ctx l.image l.img.gen))

/-! ## The placement decision (R286) -/

/-- The effective priority of a placing queue: its base, one more for every 64 frames, at most 6; 7 stays 7. -/
def effective (c : Queue) : Nat := if c.prio = 7 then 7 else min 6 (c.prio + c.age / 64)

/-- The launches that wait for a round, in the order of the decision: by effective priority, then round-robin from the
queue after the one last placed at that priority. -/
def decisionOrder (s : State) : List Launch :=
  (List.range 8).reverse.flatMap fun p =>
    let start := mget 0 s.exe.lastPlaced p
    (List.range 64).flatMap fun k =>
      let q := (start + k) % 64
      if effective (s.queue q) = p then s.exe.launches.filter fun l => l.q = q && s.placeable l else []

/-- The base priority of a launch's queue. -/
def basePrio (s : State) (l : Launch) : Nat := (s.queue l.q).prio

/-- The running groups of a context's launches of one base priority, one entry for each. -/
def victims (s : State) (x b : Nat) : List (Launch × Nat) :=
  (s.exe.launches.filter fun l => l.ctx = x && s.basePrio l = b).flatMap fun l =>
    ((l.groups.filter fun g => g.st = .running).map (·.idx)).eraseDups.map fun i => (l, i)

/-- The highest base priority of a context's open launches. -/
def ctxPrio (s : State) (x : Nat) : Nat :=
  (s.exe.launches.filter fun l => l.ctx = x).foldl (fun m l => max m (s.basePrio l)) 0

/-- What may be stopped for a launch of a context (R286): running groups of its own context and other contexts, each with the
clusters that it frees, of base priority below p, the lowest first. A partition is given up as a whole (R273), and only where
`room` clusters more are allowed. -/
def victimsBelow (s : State) (x p room : Nat) : List (Sum (Launch × Nat) Nat × List Nat) :=
  (List.range p).flatMap fun b =>
    ((s.victims x b).map fun v => (.inl v, (v.1.groups.filter fun g => g.idx = v.2 && g.st = .running).map (·.cluster))) ++
      (if room = 0 then [] else ((List.range 64).filter fun y =>
        y ≠ x && (s.ctx y).st = .resident && !(s.ctx y).evict && s.ctxPrio y = b).map fun y => (.inr y, (s.ctx y).clusters))

/-- Whether one group of a launch, with its replicas, has its clusters once some victims have given theirs up; the clusters of
groups and contexts that are stopping already count (R286, R304, R305). -/
def enough (s : State) (l : Launch) (gone : List (Sum (Launch × Nat) Nat × List Nat)) : Bool :=
  let c := s.ctx l.ctx
  let resident := c.st = .resident
  let freed (own : Bool) : List Nat := gone.flatMap fun v => if v.1.isLeft = own then v.2 else []
  let stopping := (s.exe.launches.filter fun o => o.ctx = l.ctx).flatMap fun o =>
    (o.groups.filter fun g => g.st = .stopping).map (·.cluster)
  let coming := (List.range 64).flatMap fun y => if (s.ctx y).evict then (s.ctx y).clusters else []
  let own := if resident then s.freeIn l.ctx ++ stopping ++ freed true else []
  let pool := s.pool ++ coming ++ freed false
  let sets := (toPlace l).take 1
  (resident || partMin c ≤ pool.length) &&
    (pickRound (own ++ pickPool pool (partMax c - if resident then c.clusters.length else 0) (own ++ pool) sets) sets != [])

/-- The first victims of a list that are enough for a launch; none where all of them are not. -/
def chooseFrom (s : State) (l : Launch) (gone : List (Sum (Launch × Nat) Nat × List Nat)) :
    List (Sum (Launch × Nat) Nat × List Nat) → List (Sum (Launch × Nat) Nat × List Nat)
  | [] => []
  | v :: rest => if s.enough l (gone ++ [v]) then gone ++ [v] else chooseFrom s l (gone ++ [v]) rest

/-- The choice of what to stop for a launch that lacks clusters (R286): as few of the victims as are enough, those of lower
priority first; none where all of them are not enough. -/
def preemptFor (s : State) (l : Launch) : State :=
  let c := s.ctx l.ctx
  let room := partMax c - if c.st = .resident then c.clusters.length else 0
  if s.enough l [] then s
  else
    let cands := (s.victimsBelow l.ctx (s.basePrio l) room).filter fun v => c.st = .resident || v.1.isRight
    let got := s.chooseFrom l [] cands
    let got := got.reverse.foldl (fun keep v =>
      let less := keep.filter (· ≠ v)
      if s.enough l less then less else keep) got
    got.foldl (fun s v => match v.1 with
      | .inl (m, i) => s.stopGroup m i
      | .inr y => s.evict y) s

/-- Tries one launch in the decision: placed, or, in placing, short with a pre-emption asked for (R286). -/
def decide1 (s : State) (l : Launch) : State :=
  match s.launchOf l.id with
  | none => s
  | some l =>
    if !s.placeable l then s
    else match s.placeRound l with
      | (true, s1) =>
        let p := effective (s.queue l.q)
        let s2 := { s1 with exe.lastPlaced := mset 0 s1.exe.lastPlaced p ((l.q + 1) % 64) }
        s2.setQueue l.q fun c => { c with age := 0, short := false }
      | (false, s1) =>
        if l.st ≠ .placing then s1
        else
          let s2 := s1.setQueue l.q fun c => { c with short := true }
          if (s.slotsFor l).isSome then s2.preemptFor l else s2

/-- The placement decision of a frame. -/
def decisions (s : State) : State := s.decisionOrder.foldl decide1 s

end State

end Sys2Proof.Machine
end

