-- ==== Sys2Proof/Machine/Queues.lean ====
section
/-! DEFINITION. The launch window, records and queues, the roundabout, release and completion of launches, and the power
states (01 R22, R23, 13 R264, R265, 16 R279 to R291, 17 R298 to R302, 18 R306, 25 R379). -/

namespace Sys2Proof.Machine

namespace State

/-! ## Records (R281, R282) -/

/-- Whether the regions of the executive serve: bring-up done, not locked. -/
def serving (s : State) : Bool := s.md.ready && !s.md.locked

/-- A byte of a slot as the executive reads it: one that the host wrote after the seal is its new value or an earlier one, a free
choice (R280). -/
def slotByte (s : State) (a : Nat) : Byte :=
  let new := readByte s.mem.hdm a
  match mget [] s.exe.late a with
  | [] => new
  | old => old.getD ((Config.freeByte (2 ^ 63 + s.now * 2 ^ 20 + a % 2 ^ 18)).toNat % (old.length + 1)) new

/-- The head record of a queue. The bytes of a slot whose seal byte the host wrote while it was sealed are free, the seal apart
(R292). -/
def headRecord (s : State) (q : Nat) : List Byte :=
  let j := (s.queue q).head
  match mget 0 s.exe.torn (16 * q + j) with
  | 0 => (List.range 256).map fun i => s.slotByte (s.slotPos q j + i)
  | n => ((List.range 255).map fun i => Config.freeByte (2 ^ 62 + n * 2 ^ 18 + (16 * q + j) * 256 + i)) ++ [0xA5]

/-- The context of a queue whose head record may be parsed now: no launch of the queue is placing or running, and a launch
record waits while two of its launches are open (R283). -/
def canParse (s : State) (q : Nat) : Option Nat :=
  let c := s.queue q
  let open_ := s.exe.launches.filter fun l => l.q = q
  if s.serving ∧ !s.md.gated ∧ (c.st = .armed ∨ c.st = .draining) ∧ s.sealed q c.head ∧
      (open_.all fun l => l.st = .draining) ∧ (byteField (s.headRecord q) 0 1 = 1 → open_.length < 2) then s.liveCtx q
  else none

/-- What a slot still remembers of writes after its seal is gone (R280). -/
def dropLate (s : State) (q j : Nat) : FMap (List Byte) :=
  s.exe.late.filter fun e => e.1 < s.slotPos q j || s.slotPos q j + 256 ≤ e.1

/-- The slot goes back to the host and the head moves on (R280). -/
def freeSlot (s : State) (q : Nat) : State :=
  let j := (s.queue q).head
  { s with mem.hdm := writeByte s.mem.hdm (s.slotPos q j + 255) 0,
           exe.torn := mset 0 s.exe.torn (16 * q + j) 0, exe.late := s.dropLate q j }.setQueue q fun c => { c with head := (c.head + 1) % 16 }

/-- The sequence number of a record. -/
def recSeq (r : List Byte) : BitVec 32 := BitVec.ofNat 32 (byteField r 4 4)

/-- Whether every byte that no layout names, and every flag bit outside a mask, is zero (R281). -/
def plain (r : List Byte) (flags : Nat) (named : List (Nat × Nat)) : Bool :=
  byteField r 1 1 &&& flags = byteField r 1 1 &&
    (List.range 255).all fun i =>
      i < 2 || (4 ≤ i && i < 8) || (named.any fun p => p.1 ≤ i && i < p.1 + p.2) || byteField r i 1 = 0

/-- A record completes, its queue idle or armed (R283). -/
def doneRecord (s : State) (q : Nat) (seq : BitVec 32) : State :=
  let s := s.setQueue q fun c => { c with doneSeq := seq, record := [], frames := 0 }
  s.setQueue q fun c => { c with st := s.restState q }

/-- Whether a launch of a queue is open. -/
def launchesOpen (s : State) (q : Nat) : Bool := s.exe.launches.any fun l => l.q = q

/-- Holds a record in hand in a state of its own. -/
def holdRecord (s : State) (q : Nat) (st : QueueSt) (r : List Byte) : State :=
  s.setQueue q fun c => { c with st, record := r, frames := 0 }

/-- Parses the head record of a queue as one opcode: the context, the record, and the state after the slot is free. The
check answers with an error (R282) or nothing, and the action follows. -/
def parseAs (s : State) (q op : Nat) (check : Nat → List Byte → State → Option (BitVec 3))
    (act : Nat → List Byte → State → State) : State :=
  match s.canParse q with
  | none => s
  | some x =>
    let r := s.headRecord q
    if byteField r 0 1 ≠ op then s
    else
      let s := s.freeSlot q
      match check x r s with
      | some e => s.failQueue q e (recSeq r)
      | none => act x r s

/-- The checks of a record that names one address: reserved bytes, alignment, translation (R282). -/
def checkAddr (flags : Nat) (named : List (Nat × Nat)) (align n : Nat) (need : Need) (x : Nat) (r : List Byte) (s : State) :
    Option (BitVec 3) :=
  if !plain r flags named then some 2
  else if byteField r 8 8 % align ≠ 0 then some 3
  else if !s.mapped x (byteField r 8 8) n need then some 7 else none

/-! ## Signals, fences and waits -/

/-- A signal's write, as a release (R264, R281). -/
def signalWrite (s : State) (q x : Nat) (r : List Byte) : State :=
  let a := byteField r 8 8
  if s.mapped x a 8 .w then (s.agentWrite x a (leBytes 8 (byteField r 16 8))).doneRecord q (recSeq r)
  else s.failQueue q 7 (recSeq r)

/-- A queue that waits with a fence or a signal goes on when no launch of it is open (R283). -/
def resumeWaiting (s : State) (q : Nat) : State :=
  let c := s.queue q
  match s.liveCtx q with
  | some x =>
    if c.st = .waiting ∧ !s.launchesOpen q then
      (if byteField c.record 0 1 = 2 then s.signalWrite q x c.record else s.doneRecord q (recSeq c.record))
    else s
  | none => s

/-! ## Launch records (R281, R283, R298 to R302) -/

/-- The checks of a launch record before its image (R282). The completion signal's address must be aligned only where flag [0] asks for
the signal (DESIGN CHOICE: R281 aligns the field without a condition; notes/assumptions 59). -/
def checkLaunch (x : Nat) (r : List Byte) (s : State) : Option (BitVec 3) :=
  let f := byteField r
  let fl := f 1 1
  let on (k : Nat) : Bool := fl / 2 ^ k % 2 = 1
  let t := f 16 3
  if !plain r 0x3F [(8, 11), (24, 52)] then some 2
  else if t = 0 ∨ fl / 2 % 4 = 3 ∨ f 8 8 % 64 ≠ 0 ∨ f 24 8 % 8 ≠ 0 ∨ (on 0 ∧ f 32 8 % 8 ≠ 0) ∨ f 48 8 % 8 ≠ 0 ∨
      f 56 8 % 8 ≠ 0 ∨ f 64 8 % 64 ≠ 0 ∨ (!on 3 ∧ f 48 8 ≠ 0) ∨ (!on 4 ∧ f 56 8 ≠ 0) ∨ (!on 5 ∧ f 64 8 ≠ 0) ∨
      f 72 4 % 64 ≠ 0 ∨ (!on 5 ∧ f 72 4 ≠ 0) then some 3
  else if (on 0 ∧ !s.mapped x (f 32 8) 8 .w) ∨ (on 3 ∧ !s.mapped x (f 48 8) (8 * t) .r) ∨
      (on 4 ∧ !s.mapped x (f 56 8) (8 * (t + 1)) .r) ∨ (on 5 ∧ !s.mapped x (f 64 8) (f 72 4) .w) then some 7
  else none

/-- Puts a verdict at the recent end of a context's cache; a launch that still uses an older generation of the image keeps its
entry, superseded; the least recent entry that no open launch uses makes room (R298, R302). None when every entry is in use. -/
def cacheImage (s : State) (x : Nat) (e : CachedImage) : Option State :=
  let others := ((s.ctx x).cache.filter fun o => o.base ≠ e.base ∨ s.imageInUse x o).map fun (o : CachedImage) =>
    if o.base = e.base then { o with old := true } else o
  let put (l : List CachedImage) : State := s.setCtx x fun c => { c with cache := l ++ [e] }
  if others.length < 16 then some (put others)
  else (others.findIdx? fun o => !s.imageInUse x o).map fun k => put (others.eraseIdx k)

/-- The verdict on the image a launch names, for its parameter block at p: what stands in the cache for its generation, its bytes
read anew (cause 1, with its report, where they can no longer be read), else that of a verification, with its report (R298 to R303). An image that fails for its parameters (cause 8) is
rejected for that launch alone: it takes no cache entry (R302, R303; notes/assumptions 21). None when the launch must wait for a
cache entry. -/
def imageVerdict (s : State) (x base p : Nat) : Option (Except (Nat × Nat) Image × State) :=
  let spot := s.reportSpot x base
  let gen := spot.2
  let unread : Except (Nat × Nat) Image := .error (8, 0)
  match (s.ctx x).cache.find? fun e => e.base = base && e.gen = gen && !e.old with
  | some e =>
    if e.code ≠ 0 then some (.error (e.code, 0), s)
    else match s.rereadImage x base with
      | .error c => some (.error c, s.writeReport x spot (.error c))
      | .ok im => some (if s.paramsUnread x p im then (unread, s.writeReport x spot unread) else (.ok im, s))
  | none =>
    let v := s.verify x base p
    let kept := match v with
      | .error (8, _) => some s
      | .error c => s.cacheImage x { base, gen, code := c.1, old := false }
      | .ok _ => s.cacheImage x { base, gen, code := 0, old := false }
    kept.map fun s => (v, { s with exe.rewritten := false }.writeReport x spot v)

/-- The launch that a checked record starts, its image accepted. -/
def newLaunch (s : State) (q x : Nat) (r : List Byte) (im : Image) : Launch :=
  let f := byteField r
  let fl := f 1 1
  let on (k : Nat) : Bool := fl / 2 ^ k % 2 = 1
  let copies := if 1 < im.replicas then im.replicas else if fl / 2 % 4 = 2 then 2 else 1
  let n := (f 16 3 + im.groupSize - 1) / im.groupSize
  { id := s.exe.nextLaunch, ctx := x, q, seq := recSeq r, image := f 8 8, img := im, cnt := f 16 3,
    params := BitVec.ofNat 64 (f 24 8), mode := fl / 2 % 4,
    sig := if on 0 then some (f 32 8, BitVec.ofNat 64 (f 40 8)) else none,
    stamps := if on 3 then some (f 48 8) else none, digests := if on 4 then some (f 56 8) else none,
    log := if on 5 then some (f 64 8, f 72 4) else none, logHead := 0, logLost := false, copies, st := .placing,
    groups := (List.range n).flatMap fun g => (List.range copies).map fun k =>
      { idx := g, replica := k, cluster := 0, st := .unplaced, first := none },
    strobe := none, start := none, traps := 0, placedOnce := false, serial := false, commits := 0, digs := [], order := [],
    vals := [], held := false, cont := false, save := [], joinBy := 0, clock := 0, mapCluster := [], mapSlice := [] }

/-- Starts the launch of a record that has passed its checks, or puts the queue into its error state; a launch that
finds every cache entry in use waits in placing with its record (R282, R298). -/
def startLaunch (q x : Nat) (r : List Byte) (s : State) : State :=
  let f := byteField r
  let again := (s.queue q).st = .placing
  match s.imageVerdict x (f 8 8) (f 24 8) with
  | none => if again then s else (s.holdRecord q .placing r).setQueue q fun c => { c with age := 0 }
  | some (.error _, s) => s.failQueue q 4 (recSeq r)
  | some (.ok im, s) =>
    let l := s.newLaunch q x r im
    if im.ordered ∧ l.mode = 2 then s.failQueue q 3 (recSeq r)
    else if (s.ctx x).cSaveLen.toNat < saveNeed l then s.failQueue q 5 (recSeq r)
    else
      ({ s with exe.launches := s.exe.launches ++ [l], exe.nextLaunch := s.exe.nextLaunch + 1 }.setQueue q fun c =>
        { c with st := .placing, record := [], frames := if again then c.frames else 0, age := if again then c.age else 0 })

/-! ## Captures (R287) -/

/-- The counters of a capture: the resident compute cycles, then the eight named. -/
def captureVals (s : State) (x : Nat) (nums : List Nat) : List Word :=
  (20 :: nums).map fun n => mget 0 (s.ctx x).counters n

/-! ## The roundabout (R284 to R288) -/

/-- One frame for a queue: aging in placing, and the frames spent parked, waiting or placing. -/
def ageQueue (c : Queue) : Queue :=
  let held := c.st = .parked || c.st = .waiting || c.st = .placing
  { c with age := if c.st = .placing then c.age + 1 else c.age, frames := if held then c.frames + 1 else c.frames }

/-- Tries a launch that waits for a cache entry again (R298). -/
def retryImage (s : State) (q : Nat) : State :=
  let c := s.queue q
  match s.liveCtx q with
  | some x => if c.st = .placing ∧ !c.record.isEmpty then s.startLaunch q x c.record else s
  | none => s

/-! ## Completion (R264, R379) -/

/-- Every placement of a launch retired, its link writes joined, and its commits made (R264). -/
def complete (s : State) (l : Launch) : Bool :=
  (l.groups.all fun g => g.st = .retired) && l.joinBy ≤ s.deviceTime && (!l.img.ordered || l.commits = l.cnt)

/-- The launch digest: the sum of mix(i, d_i) (R379). -/
def launchDigest (l : Launch) : Word := l.digs.foldl (fun d p => d + mix (BitVec.ofNat 64 p.1) p.2) 0

/-- The first difference from the expected digest table: a task in commit order, or T (R379). -/
def digestFault (l : Launch) (ws : List Word) : Option Nat :=
  ((l.digs.find? fun p => ws.getD p.1 0 ≠ p.2).map (·.1)).or (if ws.getD l.cnt 0 = launchDigest l then none else some l.cnt)

/-- A launch runs again, all of it: its groups are unplaced and its commits gone (R348, R379). -/
def rerun (s : State) (l : Launch) (serial : Bool) : State :=
  let lost := (s.tasks ++ s.exe.saved).filter fun t => t.id.launch = l.id && t.ctl.dbgReq
  let s : State := { s with dbg.asked := (s.dbg.asked ++ lost.map fun (t : CoreTask) => t.id.replica).eraseDups }
  let s := (s.clearTasks fun t => t.id.launch = l.id).freeMiles l.id
  let s := { s with exe.saved := s.exe.saved.filter fun t => t.id.launch ≠ l.id }
  (s.setLaunch l.id fun l =>
    { l with groups := l.groups.map (fun g => { g with st := .unplaced }), serial, commits := 0, digs := [], st := .placing,
             strobe := none, logLost := l.logLost, held := false }).setQueue l.q fun c =>
      if c.st = .running ∨ c.st = .draining then { c with st := .placing, frames := 0, age := 0 } else c

/-- Records a stop in a context's report: the first since the last resume, kill or reset stays (R349). -/
def reportFault (s : State) (x core task : Nat) (xmask xcause : BitVec 32) (reason : Nat) (xpc xval : Word) : State :=
  s.setCtx x fun c =>
    if bitOf c.fault 63 then { c with fault := c.fault ||| BitVec.ofNat 64 (2 ^ 62) }
    else
      { c with
        fault := BitVec.ofNat 64 (2 ^ 63 + core % 1024 * 2 ^ 52 + task % 2 ^ 24 * 2 ^ 28 + xmask.toNat % 256 * 2 ^ 20 +
          reason % 16 * 2 ^ 16 + xcause.toNat / 4096 % 16 * 2 ^ 12 + xcause.toNat / 256 % 16 * 256 + xcause.toNat % 256),
        faultPc := xpc, faultVal := xval }

/-- What a policy does to a launch at a trap (R333, R348): 0 kill, 1 hold, 2 re-run; the fourth trap of a launch kills
where it would run again. -/
def policyOf (s : State) (l : Launch) (tr : Trap) : Nat :=
  let p := (s.ctx l.ctx).policy.toNat
  if tr.cause = 0x08 ∧ tr.reason = 4 ∧ 4 ≤ p then 1
  else match p % 4 with
    | 1 => 1
    | 2 => if 4 ≤ l.traps then 0 else 2
    | _ => 0

/-- Another task of a held launch stops at its next group (R308, R348), with the stop that is due there, if any (R333, R346). -/
def holdTask (s : State) (core : Nat) : State :=
  s.atCore core fun s => if s.t.going then (if s.dueStop.isSome then s.takeStop false else s.yieldTask false) else s

/-- A launch is held (R348 policy 01): its tasks stop at their next groups to be saved; groups not yet begun are
unplaced; the context is faulted (R273). -/
def holdLaunch (s : State) (l : Launch) : State :=
  let s := (l.groups.filter fun g => g.st = .placing || g.st = .loaded).foldl (fun s g => s.unplace l g) s
  let s := ((s.tasks.filter fun t => t.id.launch = l.id && t.going).map (·.id.core)).foldl holdTask s
  let s := s.setLaunch l.id fun l => { l with held := true, cont := bitOf (s.ctx l.ctx).policy 2, groups := l.groups.map fun g =>
    if g.st = .running ∨ g.st = .stopping then { g with st := .faulted } else g }
  s.setCtx l.ctx fun c => { c with st := .faulted, evict := false }

/-- The policy's effect on a launch (R348). -/
def applyPolicy (s : State) (l : Launch) (tr : Trap) : State :=
  match s.policyOf l tr with
  | 0 => ((s.failLaunch l 6).resumeWaiting l.q).settleCtx l.ctx
  | 1 => s.holdLaunch l
  | _ => s.rerun l false

/-- A digest mismatch at the last commit (R379): reported; the first time the launch runs again serially, then the policy
applies. -/
def digestMismatch (s : State) (l : Launch) (k : Nat) : State :=
  let tr : Trap := { cause := 0x12, sub := 0, cls := 0, val := BitVec.ofNat 64 k, reason := 0 }
  let s := (s.reportFault l.ctx 0 0 0 0x12 0 0 tr.val).count l.ctx 15 1
  if l.serial then
    let s := s.setLaunch l.id fun l => { l with traps := l.traps + 1 }
    (s.launchOf l.id).elim s fun l => s.applyPolicy l tr
  else s.rerun l true

/-- The completion of a launch (R264, R273, R283): its signal, as a release after every write of the launch, its record's
sequence, and its end. A signal that cannot be written is dropped (R282). -/
def finishLaunch (s : State) (l : Launch) : State :=
  let s := { s with net.clock := max s.net.clock l.clock }
  let ok := match l.sig with
    | some (a, _) => s.mapped l.ctx a 8 .w
    | none => true
  let s := match l.sig with
    | some (a, v) => s.agentWrite l.ctx a (leBytes 8 v.toNat)
    | none => s
  let s := (s.endLaunch l.id).setQueue l.q fun c => { c with doneSeq := l.seq }
  let s := if ok then
      s.setQueue l.q fun c =>
        if c.st = .draining ∧ !(s.exe.launches.any fun o => o.q = l.q && o.st = .draining) then { c with st := s.restState l.q } else c
    else s.errorQueue l.q 7 l.seq
  (s.resumeWaiting l.q).settleCtx l.ctx

/-- The end of a drained launch: the digest check of an ordered launch with a table, then completion (R264, R379). -/
def tryComplete (s : State) (l : Launch) : State :=
  if !s.complete l ∨ l.held then s
  else match l.digests with
    | none => s.finishLaunch l
    | some a =>
      if !l.img.ordered then s.finishLaunch l
      else match s.tableWords l.ctx a (l.cnt + 1) with
        | none => ((s.failLaunch l 7).resumeWaiting l.q).settleCtx l.ctx
        | some ws =>
          match digestFault l ws with
          | none => s.finishLaunch l
          | some k => s.digestMismatch l k

/-! ## Seals (R280, R289) -/

/-- What the line monitor does when a slot's seal is written: the queue is armed once its head is sealed (DESIGN CHOICE: R280 arms it
on a seal in any slot, R283 on one at the head; notes/assumptions 59). -/
def monitor (s : State) (q : Nat) : State :=
  if s.md.gated then { s with md.waking := true, exe.wake := s.exe.wake ||| BitVec.ofNat 64 (2 ^ q) }
  else if (s.liveCtx q).isSome ∧ (s.queue q).st = .idle ∧ s.sealed q (s.queue q).head then
    s.setQueue q fun c => { c with st := .armed }
  else s

/-- A host write of the seal byte of a slot that is sealed leaves its record undefined (R292). -/
def tear (s : State) (q j : Nat) : State :=
  if s.sealed q j then { s with exe.torn := mset 0 s.exe.torn (16 * q + j) (s.now + 1) } else s

/-- A host write to another byte of a slot that is sealed: the parse may still read the earlier value (R280). -/
def writeLate (s : State) (a q j : Nat) : State :=
  if s.sealed q j then { s with exe.late := mmod [] s.exe.late a (· ++ [readByte s.mem.hdm a]) } else s

end State

/-! ## The events -/

/-- SEAL (R280, R289): a host write of 0xA5 to byte 255 of a slot. -/
def execSeal (q : Fin 64) (slot : Fin 16) (s : State) : Out :=
  .next (if s.serving then
      let s := s.tear q.val slot.val
      { s with mem.hdm := writeByte s.mem.hdm (s.slotPos q.val slot.val + 255) 0xA5 }.monitor q.val
    else s)

/-- LAUNCH_RECORD (R282, R283, R298). -/
def execLaunchRecord (q : Fin 64) (s : State) : Out :=
  .next (s.parseAs q.val 1 State.checkLaunch (State.startLaunch q.val))

/-- SIGNAL_RECORD (R281, R283): written at once, or held until no launch of the queue is open. -/
def execSignalRecord (q : Fin 64) (s : State) : Out :=
  .next (if (s.queue q.val).st = .waiting then s.resumeWaiting q.val
    else s.parseAs q.val 2 (State.checkAddr 0 [(8, 16)] 8 8 .w) fun x r s =>
      if s.launchesOpen q.val then s.holdRecord q.val .waiting r else s.signalWrite q.val x r)

/-- WAIT_RECORD (R281, R283): the queue parks. -/
def execWaitRecord (q : Fin 64) (s : State) : Out :=
  .next (s.parseAs q.val 3 (State.checkAddr 1 [(8, 16)] 8 8 .r) fun _ r s => s.holdRecord q.val .parked r)

/-- CAPTURE_START (R287, R356). -/
def execCaptureStart (q : Fin 64) (s : State) : Out :=
  .next (s.parseAs q.val 4 (fun x r s =>
      if !State.plain r 0 [(8, 16)] then some 2
      else if byteField r 8 8 % 64 ≠ 0 ∨ ((r.drop 16).take 8).any (fun b => 19 < b.toNat) then some 3
      else if !s.mapped x (byteField r 8 8) 72 .w then some 7 else none) fun x r s =>
    let nums := ((r.drop 16).take 8).map (·.toNat)
    (s.setQueue q.val fun c => { c with capture := some (byteField r 8 8 :: nums, s.captureVals x nums) }).doneRecord q.val
      (State.recSeq r))

/-- CAPTURE_STOP (R287): the capture record, as a release. -/
def execCaptureStop (q : Fin 64) (s : State) : Out :=
  .next (s.parseAs q.val 5 (fun _ r s =>
      if !State.plain r 0 [] then some 2 else if (s.queue q.val).capture.isNone then some 3 else none) fun x r s =>
    match (s.queue q.val).capture with
    | some (addr :: nums, base) =>
      let s1 := s.setQueue q.val fun c => { c with capture := none }
      if s.mapped x addr 72 .w then
        let v := (s.captureVals x nums).zip base |>.flatMap fun p => leBytes 8 (p.1 - p.2).toNat
        (s1.agentWrite x addr v).doneRecord q.val (State.recSeq r)
      else s1.failQueue q.val 7 (State.recSeq r)
    | _ => s)

/-- FENCE_RECORD (R283). -/
def execFenceRecord (q : Fin 64) (s : State) : Out :=
  .next (if (s.queue q.val).st = .waiting then s.resumeWaiting q.val
    else s.parseAs q.val 6 (fun _ r _ => if State.plain r 0 [] then none else some 2) fun _ r s =>
      if s.launchesOpen q.val then s.holdRecord q.val .waiting r else s.doneRecord q.val (State.recSeq r))

/-- NOP_RECORD (R281). -/
def execNopRecord (q : Fin 64) (s : State) : Out :=
  .next (s.parseAs q.val 7 (fun _ r _ => if State.plain r 0 [] then none else some 2) fun _ r s =>
    s.doneRecord q.val (State.recSeq r))

/-- UNKNOWN_OPCODE_RECORD (R282): error 1. -/
def execUnknownOpcodeRecord (q : Fin 64) (s : State) : Out :=
  .next (match s.canParse q.val with
    | none => s
    | some _ =>
      let r := s.headRecord q.val
      if 1 ≤ byteField r 0 1 ∧ byteField r 0 1 ≤ 7 then s else (s.freeSlot q.val).failQueue q.val 1 (State.recSeq r))

/-- PARKED_WAIT_POLL (R281 to R283): the parked queue's word is read again. -/
def execParkedWaitPoll (q : Fin 64) (s : State) : Out :=
  .next (match s.liveCtx q.val with
    | none => s
    | some x =>
      let c := s.queue q.val
      if c.st ≠ .parked ∨ s.md.gated then s
      else
        let f := byteField c.record
        match s.agentNat x (f 8 8) 8 with
        | none => s.failQueue q.val 7 (State.recSeq c.record)
        | some w =>
          let holds := if f 1 1 % 2 = 0 then w = f 16 8 else serialGe (BitVec.ofNat 32 w) (BitVec.ofNat 32 (f 16 8))
          if holds then s.doneRecord q.val (State.recSeq c.record) else s)

/-- ROUND_LOADED (R306 step 2, R307): every core of a round is loaded; the strobe time is the next frame boundary, and with it
chosen the tasks are released. -/
def execRoundLoaded (l : Nat) (s : State) : Out :=
  .next (match s.launchOf l with
    | none => s
    | some la =>
      if la.groups.any fun g => g.st = .placing then
        let mine (t : CoreTask) : Bool := t.id.launch = l && la.groups.any fun g =>
          g.st = .placing && g.idx = t.id.gidx && g.replica = t.id.replica
        (s.onTasks (fun t => mine t && t.ctl.st != .halted) fun t => { t with ctl.st := .released }).setLaunch l fun la =>
          { la with strobe := some ((s.deviceTime / 1024 + 1) * 1024),
                    groups := la.groups.map fun g => if g.st = .placing then { g with st := .loaded } else g }
      else s)

/-- RELEASE_STROBE (R306, R307): between two compute cycles, the next being the first whose device time is at or above Ts. Every
task of the round runs, restored ones from their snapshots; the queue runs once its launch does. -/
def execReleaseStrobe (l : Nat) (s : State) : Out :=
  .next (match s.launchOf l with
    | none => s
    | some la =>
      match la.strobe with
      | none => s
      | some ts =>
        if s.nextTime < ts ∨ !(la.groups.any fun g => g.st = .loaded) ∨ !s.between then s
        else
          let cores := (s.tasks.filter fun t => t.id.launch = l && t.ctl.st = .released).map (·.id.core)
          let s := cores.foldl (fun s k => s.atCore k fun s =>
            (s.onT fun t => { t.resumeFrom with lm.clock := max t.lm.clock s.net.clock }).reissue.onT (·.startCmds) |>.traceStart) s
          let s := s.setLaunch l fun la =>
            { la with strobe := none, start := la.start.or (some ts), st := if la.st = .placing then .running else la.st,
                      groups := la.groups.map fun g => if g.st = .loaded then { g with st := .running } else g }
          s.setQueue la.q fun c => if c.st = .placing ∧ c.record.isEmpty then { c with st := .running, frames := 0 } else c)

/-- LAUNCH_COMPLETION (R264, R23): a drained launch completes and retires; the executive of a gated module does nothing. -/
def execLaunchCompletion (l : Nat) (s : State) : Out :=
  .next (if s.md.gated then s
    else
      let s' := s.settleLaunch l
      match s'.launchOf l with
      | none => s
      | some la => s'.tryComplete la)

/-- QUEUE_STALL_TIMEOUT (R288): the executive's count of frames has run out; it stands while the module is gated (R23). The count goes
on after the bit is set, so a stall that the host clears while the queue stays in the state is set again at the next event (DESIGN
CHOICE; notes/assumptions 59). -/
def execQueueStallTimeout (q : Fin 64) (s : State) : Out :=
  .next (let c := s.queue q.val
    let held := c.st = .parked || c.st = .waiting || c.st = .placing
    if !s.md.gated ∧ held ∧ c.stallCfg ≠ 0 ∧ c.stallCfg.toNat ≤ c.frames then s.setQueue q.val fun c => { c with stall := true } else s)

/-- MODULE_GATING (R22): every cluster in retention or off, no queue running. -/
def execModuleGating (s : State) : Out :=
  .next (if s.serving ∧ !s.md.gated ∧ (List.range 192).all (fun c =>
        mget .idle s.md.power c = .retention || mget .idle s.md.power c = .off) ∧
      !(List.range 64).any (fun q => (s.queue q).st = .running) then
      { s with md.gated := true }.advertise true
    else s)

/-- WAKE_SEQUENCE_COMPLETE (R23, R289): the module runs again and advertises it; latched queues are scanned from their
heads. -/
def execWakeSequenceComplete (s : State) : Out :=
  .next (if s.md.gated ∧ s.md.waking then
      let w := s.exe.wake
      let s := { s with md.gated := false, md.waking := false, exe.wake := 0 }.advertise false
      (List.range 64).foldl (fun s q => if bitOf w q then s.monitor q else s) s
    else s)

/-- CLUSTER_POWER_CHANGE (R22): a cluster that groups hold stays active; one that holds a saved group is never off; a
cluster that is off keeps nothing. -/
def execClusterPowerChange (cl : Nat) (p : Power) (s : State) : Out :=
  .next (let held := s.busy.contains cl && p != .active
    let saved := s.exe.launches.any fun l => l.groups.any fun g => g.cluster = cl && g.st = .saved
    if cl < 192 ∧ s.serving ∧ !s.md.gated ∧ !held ∧ !(p = .off ∧ saved) then
      let s := { s with md.power := mset .idle s.md.power cl p }
      if p = .off then
        { s.onTasks (fun t => t.id.core / 4 = cl) (fun t => { CoreTask.empty t.id.core with
            lm := { (CoreTask.empty 0).lm with clock := t.lm.clock, planeMark := s.now }, pipe.seen := t.pipe.seen }) with
          exe.lastCtx := mset 0 s.exe.lastCtx cl 0 }
      else s
    else s)

end Sys2Proof.Machine
end

