-- ==== Sys2Proof/Machine/Contexts.lean ====
section
/-! DEFINITION. Stop reports and policies, context commands and resets, queue control, invalidation, and the loss of a
cluster (01 R26, R27, R28, 15 R268 to R278, 16 R282, R286, R288, R290, 20 R329, R330, 22 R348, R349, 24 R360). -/

namespace Sys2Proof.Machine

namespace State

/-! ## Who may write (R26, R27, R290) -/

/-- Whether a master is the owner. -/
def isOwner (s : State) (m : Master) : Bool := m.id != 0 && m.id.val = s.md.own.owner

/-- Whether the ownership region answers a master: on the I3C path from power good, over CXL while its link is up: from step 4
of bring-up on, and through a module reset (R24, R25, R36). -/
def answers (s : State) (m : Master) : Bool := s.md.booted && (s.md.cxlUp || m.id = 3)

/-- An OW write: by the owner it acts; by another master it is ignored and counted (R27). -/
def owned (s : State) (m : Master) (f : State → State) : State :=
  if s.isOwner m then f s
  else { s with md.own.denied := min 255 (s.md.own.denied + 1) }

/-- An OW write of a region that answers only when the module serves (R24, R29). -/
def ownedServing (s : State) (m : Master) (f : State → State) : State := if s.serving then s.owned m f else s

/-- Whether a master may write a queue's registers (R27, R290). -/
def mayQueue (s : State) (m : Master) (q : Nat) : Bool :=
  s.serving && (s.isOwner m ||
    ((m.id = 1 || m.id = 2) && (s.queueCtx q).any fun x => (s.ctx x).cFunc.toNat = m.fn.val))

/-! ## Context commands (R272) -/

/-- The result of a command. -/
def result (s : State) (x : Nat) (r : BitVec 3) : State := s.setCtx x fun c => { c with result := r }

/-- Whether partition limits are well-formed (R271). -/
def partOk (p : BitVec 16) : Bool := 1 ≤ p.toNat / 256 && p.toNat / 256 ≤ p.toNat % 256 && p.toNat % 256 ≤ 192

/-- Whether another context holds some of the queues or slices a context asks for; a destroyed one holds its own until its scrub
is done (R268, R273). -/
def overlap (s : State) (x : Nat) : Bool :=
  (List.range 64).any fun y => y ≠ x && (s.ctx y).st != .free &&
    ((s.ctx y).cQueues &&& (s.ctx x).queues != 0 || (s.ctx y).cSlices &&& (s.ctx x).slices != 0)

/-- The first check of a configure that fails (R272). -/
def configureFault (s : State) (x : Nat) : BitVec 3 :=
  let c := s.ctx x
  if 16 < c.func.toNat ∨ !partOk c.part ∨ c.ptroot.toNat % 2 ^ 12 ≠ 0 ∨ c.slices = 0 then 2
  else if s.overlap x then 3
  else if s.md.prov then 4 else 0

/-- Binds a context's resources and key; its queues are scanned (R268, R272, R283). -/
def bind (s : State) (x : Nat) : State :=
  let s := { s with md.keys := mset 0 s.md.keys x (s.ctx x).key }
  let s := s.setCtx x fun c =>
    { c with st := .configured, result := 0, key := 0, cFunc := c.func, cPart := c.part, cPtroot := c.ptroot,
             cQueues := c.queues, cSaveBase := c.saveBase, cSaveLen := c.saveLen, cSlices := c.slices, cache := [] }
  (List.range 64).foldl (fun s q => if bitOf (s.ctx x).cQueues q then s.monitor q else s) s

/-! ## Resets (R276) -/

/-- Clears the seals of a queue's slots. -/
def clearSlots (s : State) (q : Nat) : State :=
  { s with mem.hdm := (List.range 16).foldl (fun m j => writeByte m (s.slotPos q j + 255) 0) s.mem.hdm,
           exe.torn := s.exe.torn.filter fun e => e.1 / 16 ≠ q,
           exe.late := s.exe.late.filter fun e => e.1 < s.slotPos q 0 || s.slotPos q 0 + 0x1000 ≤ e.1 }

/-- Zeroes the save slots that a context's launches hold (R276 step 5). -/
def zeroSlots (s : State) (x : Nat) : State :=
  (s.slotsInUse x).foldl (fun s u => s.agentWrite x ((s.ctx x).cSaveBase.toNat + u.1) (List.replicate u.2 0)) s

/-- Steps 1 to 4 of a reset, and the save slots of step 5: launches end with no signal, tasks and commands are dropped
unpublished, milestones cleared. -/
def beginReset (s : State) (x : Nat) (st : CtxSt) : State :=
  let s := s.zeroSlots x
  let s := ((s.exe.launches.filter fun l => l.ctx = x).map (·.id)).foldl endLaunch s
  let s := { s with mem.miles := s.mem.miles.filter fun e => e.1 / 256 ≠ x }
  s.setCtx x fun c => { c with st, pend := true, evict := false }

/-- Steps 5 to 7 of a reset: the scrub of the partition's cores and of the slices, the translations, the queues (R276); due
substitutions (R28, R277); the stop report (R349, R360). -/
def finishReset (s : State) (x : Nat) (st : CtxSt) : State :=
  let c := s.ctx x
  let s := s.onTasks (fun t => c.clusters.contains (t.id.core / 4)) fun t =>
    { CoreTask.empty t.id.core with
      lm := { (CoreTask.empty 0).lm with clock := t.lm.clock, planeMark := t.lm.planeMark }, pipe.seen := t.pipe.seen }
  let drop (m : FMap (List Leaf)) : FMap (List Leaf) :=
    (m.map fun e => (e.1, e.2.filter fun l => l.ctx ≠ x)).filter fun e => !e.2.isEmpty
  let s := { s with
    mem.slices := s.mem.slices.filter fun e => !bitOf c.cSlices (e.1 / 0x300000),
    mem.sliceBad := s.mem.sliceBad.filter fun n => !bitOf c.cSlices (32 * n / 0x300000),
    mem.tlbCore := drop s.mem.tlbCore, mem.tlbCluster := drop s.mem.tlbCluster, mem.tlbDie := drop s.mem.tlbDie,
    exe.lastCtx := c.clusters.foldl (fun m k => mset 0 m k 0) s.exe.lastCtx }
  let s := s.substituteCtx x
  let s := (List.range 64).foldl (fun s q =>
    if bitOf c.cQueues q then (s.clearSlots q).setQueue q fun _ => Queue.idle else s) s
  s.setCtx x fun c =>
    { c with st, pend := false, clusters := [], invBusy := false, cache := [], fault := 0, faultPc := 0, faultVal := 0 }

/-- Starts a destroy (R272, R273). -/
def beginDestroy (s : State) (x : Nat) : State := (s.beginReset x .destroyed).setCtx x fun c => { c with destroyRec := false }

/-- The end of a destroy: the key is zeroed and every resource released (R273); the routes become invalid (R343). -/
def release (s : State) (x : Nat) : State :=
  let s := (s.finishReset x .free).setCtx x fun c =>
    { c with cFunc := 0, cPart := 0, cPtroot := 0, cQueues := 0, cSaveBase := 0, cSaveLen := 0, cSlices := 0 }
  { s with md.keys := mset 0 s.md.keys x 0, net.routes := s.net.routes.filter fun e => e.1 / 256 ≠ x }

def resettable (st : CtxSt) : Bool := st = .configured || st = .resident || st = .saved || st = .faulted

/-! ## Resume and kill (R272, R273, R333, R349) -/

/-- The commands that a task's resume drops: those that a translation fault stopped, outside continue mode (R209, R333). -/
def lostCmds (cont : Bool) (t : CoreTask) : List Cmd :=
  if t.r.xcause.toNat % 256 = 8 ∧ t.r.xval.toNat / 2 ^ 44 % 16 = 4 ∧ !cont then
    t.eng.cmds.filter fun c => c.faulted && c.reason = 4
  else []

/-- A dropped command: its counter loses the bytes that it still counts. -/
def loseCmd (t : CoreTask) (c : Cmd) : CoreTask := t.subCtr c.ctr (c.counted - c.bytes * (if c.ret then 2 else 1))

/-- The residuals of a held task at a resume: some are dropped, and each other one is queued again. -/
def settleResiduals (cont : Bool) (t : CoreTask) : CoreTask :=
  let t := (lostCmds cont t).foldl (fun t c => (loseCmd t c).dropCmd c.ord) t
  { t with eng.cmds := t.eng.cmds.map fun (c : Cmd) => { c with faulted := false } }

def clearFault (s : State) (x : Nat) : State := s.setCtx x fun c => { c with fault := 0, faultPc := 0, faultVal := 0 }

/-- A held launch goes on: the groups still being saved are stopping (R308). -/
def unholdLaunch (l : Launch) : Launch :=
  { l with held := false, groups := l.groups.map fun g => if g.st = .faulted then { g with st := .stopping } else g }

/-- A resume: a published command that is dropped is dropped for every replica (R370); the held launches go on, their groups to be placed again, their residuals under the policy of their stop (R271,
R272, R308). -/
def resumeCtx (s : State) (x : Nat) : State :=
  let held := s.exe.launches.filter fun l => l.ctx = x && l.held
  let ids := held.map (·.id)
  let go (t : CoreTask) : CoreTask := settleResiduals (held.any fun l => l.id = t.id.launch && l.cont) t
  let gone := (s.tasks ++ s.exe.saved).flatMap fun t =>
    ((lostCmds (held.any fun l => l.id = t.id.launch && l.cont) t).filter fun c => c.pub && ids.contains t.id.launch).map fun c => (t, c)
  let s := gone.foldl (fun s p => s.onWhole (fun o => replicas p.1 o && o.id.replica != p.1.id.replica) fun o =>
    { loseCmd o p.2 with eng.away := o.eng.away.filter (·.ord ≠ p.2.ord) }) s
  let s := s.onWhole (fun t => ids.contains t.id.launch) go
  let s := { s with
    exe.launches := s.exe.launches.map fun (l : Launch) => if ids.contains l.id then unholdLaunch l else l }
  ((s.clearFault x).setCtx x fun c => { c with st := .resident }).result x 0

/-- A kill: the held launches end with no signal and their queues enter error state 6; the context is configured when nothing
else of it runs (R273, R282). -/
def killCtx (s : State) (x : Nat) : State :=
  let s := (s.exe.launches.filter fun l => l.ctx = x && l.held).foldl (fun s l => (s.failLaunch l 6).resumeWaiting l.q) s
  let runs := s.exe.launches.any fun l => l.ctx = x
  ((s.clearFault x).setCtx x fun c =>
    if runs then { c with st := .resident } else { c with st := .configured, clusters := [], evict := false }).result x 0

/-! ## The commands of the register window (R23, R272, R274, R282) -/

/-- A configure. -/
def configure (s : State) (x : Nat) : State :=
  if (s.ctx x).st ≠ .free then s.result x 1
  else
    let r := s.configureFault x
    if r = 0 then s.bind x else s.result x r

/-- A destroy; while a reset is in progress it is recorded. -/
def destroy (s : State) (x : Nat) : State :=
  let st := (s.ctx x).st
  if st = .free ∨ st = .destroyed then s.result x 1
  else if st = .resetting then (s.setCtx x fun c => { c with destroyRec := true, pend := true }).result x 0
  else (s.beginDestroy x).result x 0

/-- A resize: the groups on surplus clusters, the highest numbers, stop; a partition below its limit grows or is saved. -/
def resize (s : State) (x : Nat) : State :=
  let c := s.ctx x
  if c.st ≠ .resident ∧ c.st ≠ .saved then s.result x 1
  else if !partOk c.part then s.result x 2
  else
    let s := (s.setCtx x fun c => { c with cPart := c.part }).result x 0
    let excess := c.clusters.length - c.part.toNat % 256 - (s.freeIn x).length
    let used := c.clusters.filter fun k => !(s.freeIn x).contains k
    let surplus := used.reverse.take excess
    let s := s.exe.launches.foldl (fun s l =>
      ((l.groups.filter fun g => holds g && l.ctx = x && surplus.contains g.cluster).map (·.idx)).eraseDups.foldl
        (fun s g => s.stopGroup l g) s) s
    s.settleParts x

/-- A skip: the failing record is dropped; its slot is free since its parse (R280, R282). -/
def skipRecord (s : State) (q : Nat) : State :=
  if (s.queue q).st = .error then
    (s.setQueue q fun c => { c with st := s.restState q, err := 0, frames := 0 }).resumeWaiting q
  else s

/-- A flush: every seal of the queue is cleared, its head, its error and the record in its hand are gone (R282, R283). -/
def flushQueue (s : State) (q : Nat) : State :=
  (s.clearSlots q).setQueue q fun c =>
    { c with st := .idle, err := 0, head := 0, short := false, record := [], frames := 0, age := 0 }

/-- A function-level reset begins: every context of the function, or of every function for function 0; a context that is resetting
absorbs it (R276). -/
def functionReset (s : State) (f : Nat) : State :=
  (List.range 64).foldl (fun s x =>
    if resettable (s.ctx x).st ∧ (f = 0 ∨ (s.ctx x).cFunc.toNat = f) then s.beginReset x .resetting else s) s

/-- A command takes effect. -/
def perform (s : State) : Deferred → State
  | .configure x => s.configure x
  | .destroy x => s.destroy x
  | .resume x => if (s.ctx x).st = .faulted then s.resumeCtx x else s.result x 1
  | .kill x => if (s.ctx x).st = .faulted then s.killCtx x else s.result x 1
  | .resize x => s.resize x
  | .reset x => if resettable (s.ctx x).st then (s.beginReset x .resetting).result x 0 else s.result x 1
  | .skip q => s.skipRecord q
  | .flush q => s.flushQueue q
  | .window => s.settleSpares
  | .flr f => s.functionReset f

/-- A command that a master may write: at once, or, while the module is gated, in the first frame after wake (R23). Until then it is not
pending: pend reads as before it (DESIGN CHOICE: R271 does not say; notes/assumptions 28). -/
def later (s : State) (d : Deferred) : State :=
  if s.md.gated then { s with exe.deferred := s.exe.deferred ++ [d] } else s.perform d

/-- The commands written while the module was gated take effect, in their order. -/
def performAll (s : State) : State := s.exe.deferred.foldl perform { s with exe.deferred := [] }

/-- A spare takes the place of a cluster that has failed outright; with none left it is out of service, and spare_out is set
(R28). -/
def replaceCluster (s : State) (cl : Nat) : State :=
  let s1 := s.substitute .core cl
  if s.spareLeft cl then s1 else { s1 with md.failed := cl :: s1.md.failed }

/-- The clusters whose substitution waited for a context save: once none is in progress, a spare takes the place of each (R28). -/
def settleLost (s : State) : State :=
  if s.saving then s else s.md.lost.foldl replaceCluster { s with md.lost := [] }

/-! ## Invalidation (R329, R330) -/

/-- A write of CTX_INVCTL: it starts an invalidation of scope 00 or 01, at the address that CTX_INVVA then holds; one that arrives
while another is in progress is lost. -/
def invalidate (s : State) (x : Nat) (scope : BitVec 2) : State :=
  let c := s.ctx x
  if c.st = .free ∨ c.st = .destroyed then s
  else if c.invBusy then s.setCtx x fun c => { c with invLost := true }
  else if 2 ≤ scope.toNat then s
  else s.setCtx x fun c => { c with invBusy := true, invLost := false, invScope := scope, invAt := c.invVa }

/-- Whether an invalidation drops a leaf. -/
def invalidated (c : Ctx) (x : Nat) (l : Leaf) : Bool :=
  l.ctx = x && (c.invScope = 1 || l.va = c.invAt.toNat / 2 ^ l.size * 2 ^ l.size)

/-- Whether an invalidation in progress drops the entry that maps an address of a context from some cache. -/
def dropsEntry (s : State) (x va : Nat) : Bool :=
  (s.mem.tlbCore ++ s.mem.tlbCluster ++ s.mem.tlbDie).any fun e => e.2.any fun l => invalidated (s.ctx x) x l && maps l x va

/-- Whether a chunk that was read from a page whose entry an invalidation drops is on its way over a link, its command there or gone.
Every other access performs in the step that translates it (R198, R330). -/
def readsUnderway (s : State) (x : Nat) : Bool :=
  (List.range 16).any fun l => (s.link l).chunks.any fun ch => !ch.lost && ch.ctx = x && ch.pages.any (s.dropsEntry x)

/-- Whether a chunk that the context has sent is on its way over a link: what has been admitted completes before a reset ends (R276). -/
def chunksUnderway (s : State) (x : Nat) : Bool :=
  (List.range 16).any fun l => (s.link l).chunks.any fun ch => !ch.lost && ch.ctx = x

end State

/-! ## The events -/

/-- STOP_REPORT (R348, R349, R333): a stopped task is reported and its context's policy applied. A younger task of an
ordered launch is reported only once its inputs are final (R381). The arrivals at its group's barrier are discarded (R315). -/
def execStopReport (core : Nat) (s : State) : Out :=
  .next (s.atCore core fun s =>
    let t := s.t
    match t.ctl.stopVal, s.launchOf t.id.launch with
    | some tr, some l =>
      if t.ctl.st ≠ .faulted ∨ (t.id.ordered ∧ !s.finalInputs) then s
      else
        let x := t.id.ctx
        let s := (s.traceStop.onTasks (State.mates t) fun p => { p with pipe.barArr := false }).onT fun t =>
          { t with ctl.stopVal := none }
        let s := (s.count x 15 1).reportFault x t.id.cidBase t.id.idx t.r.xmask t.r.xcause tr.reason t.r.xpc t.r.xval
        let s := s.setLaunch l.id fun l => { l with traps := l.traps + 1 }
        if l.held then s
        else (s.launchOf l.id).elim s fun l => s.applyPolicy l tr
    | _, _ => s)

/-- CONFIGURE (R272). -/
def execConfigure (m : Master) (x : Fin 64) (s : State) : Out := .next (s.ownedServing m fun s => s.later (.configure x.val))

/-- DESTROY (R272): recorded while a reset is in progress. -/
def execDestroy (m : Master) (x : Fin 64) (s : State) : Out := .next (s.ownedServing m fun s => s.later (.destroy x.val))

/-- RESUME (R272, R273). -/
def execResume (m : Master) (x : Fin 64) (s : State) : Out := .next (s.ownedServing m fun s => s.later (.resume x.val))

/-- KILL (R272, R273). -/
def execKill (m : Master) (x : Fin 64) (s : State) : Out := .next (s.ownedServing m fun s => s.later (.kill x.val))

/-- RESIZE (R272, R274). -/
def execResize (m : Master) (x : Fin 64) (s : State) : Out := .next (s.ownedServing m fun s => s.later (.resize x.val))

/-- RESET (R272, R276). -/
def execReset (m : Master) (x : Fin 64) (s : State) : Out := .next (s.ownedServing m fun s => s.later (.reset x.val))

/-- CONTEXT_SCRUB_COMPLETE (R273, R276, R23): a reset ends in configured, or in the destroy that was recorded; a destroy ends in
free; the executive of a gated module does nothing. -/
def execContextScrubComplete (x : Fin 64) (s : State) : Out :=
  .next (if s.md.gated ∨ s.chunksUnderway x.val then s else match (s.ctx x.val).st with
    | .resetting =>
      let again := (s.ctx x.val).destroyRec
      let s := s.finishReset x.val .configured
      if again then s.beginDestroy x.val else s
    | .destroyed => s.release x.val
    | _ => s)

/-- FUNCTION_LEVEL_RESET (R276, R360): it begins at the next frame boundary. -/
def execFunctionLevelReset (f : Fin 17) (s : State) : Out :=
  .next (if s.serving then { s with exe.deferred := s.exe.deferred ++ [.flr f.val] } else s)

/-- SKIP (R282). -/
def execSkip (m : Master) (q : Fin 64) (s : State) : Out :=
  .next (if s.mayQueue m q.val then s.later (.skip q.val) else s)

/-- FLUSH (R282, R283). -/
def execFlush (m : Master) (q : Fin 64) (s : State) : Out :=
  .next (if s.mayQueue m q.val then s.later (.flush q.val) else s)

/-- ROUNDABOUT_FRAME (R284, R286, R23): a frame begins, on a multiple of 1,024 ns of device time. Commands written while the module
was gated take effect, groups and launches are brought up to date, queues age, and the placement decision is made. A gated
module only counts. -/
def execRoundaboutFrame (s : State) : Out :=
  .next (if !s.serving ∨ s.deviceTime % 1024 ≠ 0 then s
    else
      let s := { s with exe.frame := s.exe.frame + 1 }
      if s.md.gated then s
      else
        let s := s.performAll.settleLost.settle.settleSpares
        let s := { s with exe.queues := s.exe.queues.map fun e => (e.1, State.ageQueue e.2) }
        ((List.range 64).foldl State.retryImage s).decisions)

/-- Q_PRIO (R286): only the owner may store 7; aging starts again. -/
def execQPrio (m : Master) (q : Fin 64) (v : BitVec 32) (s : State) : Out :=
  .next (if s.mayQueue m q.val then
      let p := v.toNat % 8
      s.setQueue q.val fun c => { c with prio := if p = 7 ∧ !s.isOwner m then 6 else p, age := 0 }
    else s)

/-- Q_STALLCLR (R288): bit 0 clears the stall of the queue. -/
def execQStallclr (m : Master) (q : Fin 64) (v : BitVec 32) (s : State) : Out :=
  .next (if s.mayQueue m q.val ∧ bitOf v 0 then s.setQueue q.val fun c => { c with stall := false } else s)

/-- INVALIDATE_PAGE (R329): scope 00. -/
def execInvalidatePage (m : Master) (x : Fin 64) (s : State) : Out :=
  .next (s.ownedServing m fun s => s.invalidate x.val 0)

/-- INVALIDATE_CONTEXT (R329): scope 01. -/
def execInvalidateContext (m : Master) (x : Fin 64) (s : State) : Out :=
  .next (s.ownedServing m fun s => s.invalidate x.val 1)

/-- INVALIDATION_COMPLETE (R330): once what was read under the old entries has performed, the matching entries are dropped from
every cache and busy clears. -/
def execInvalidationComplete (x : Fin 64) (s : State) : Out :=
  .next (let c := s.ctx x.val
    if !c.invBusy || s.readsUnderway x.val then s
    else
      let drop (m : FMap (List Leaf)) : FMap (List Leaf) :=
        (m.map fun e => (e.1, e.2.filter fun l => !State.invalidated c x.val l)).filter fun e => !e.2.isEmpty
      { s with mem.tlbCore := drop s.mem.tlbCore, mem.tlbCluster := drop s.mem.tlbCluster,
               mem.tlbDie := drop s.mem.tlbDie }.setCtx x.val fun c => { c with invBusy := false })

/-- A cluster that is out of service leaves the partition of a context that is resident or saved (R274). -/
def State.shrink (s : State) (x cl : Nat) : State :=
  if s.md.failed.contains cl then
    (s.setCtx x fun c => { c with clusters := c.clusters.filter (· ≠ cl) }).holdMin x
  else s

/-- A group on a cluster that fails goes back to the last pre-emption points of its tasks and is saved there; one that has not
run yet is unplaced (R274). What the task's link writes still wait for (R257, R264), a debug stop asked for (R352) and the clock that
its core has reached (R252) stay. -/
def State.displace (s : State) (l : Launch) (g : GroupPl) : State :=
  match g.st with
  | .placing | .loaded => s.unplace l g
  | _ =>
    let mine := State.inGroup l.id g.idx g.replica
    let back (t : CoreTask) : CoreTask :=
      if t.ctl.st = .halted ∨ t.ctl.st = .faulted ∨ t.ctl.st = .stopping ∨ t.ctl.st = .saved then t
      else match s.exe.points.find? fun o => o.id = t.id with
        | some o => { o with eng.linkWins := CoreTask.mergeWindows o.eng.linkWins t.eng.linkWins, ctl.dbgReq := t.ctl.dbgReq,
                             lm.clock := max o.lm.clock t.lm.clock, pipe.seen := t.pipe.seen }
        | none => t
    let s := s.onTasks mine back
    ((s.tasks.filter fun t => mine t && t.going).map (·.id.core)).foldl (fun s k => s.atCore k (·.yieldTask false))
      (s.setGroup l.id g.idx g.replica fun g => { g with st := .stopping })

/-- CLUSTER_FAILURE (R28, R274): the groups of a cluster that fails outright are re-placed from their last pre-emption points, and a
spare takes its place, at once or when a context save in progress has completed; with none left the partition shrinks by one, and
below its limit its context is saved. It is the executive's work: none is done in a gated module (R23). The partition of a faulted or resetting context keeps its number until the context is
resident. -/
def execClusterFailure (cl : Nat) (s : State) : Out :=
  .next (if 192 ≤ cl ∨ !s.inService cl ∨ !s.serving ∨ s.md.gated then s
    else
      let p := 4 * (s.physCore (4 * cl) / 4)
      let user := s.userOf .core cl
      let acts := user.all fun x => (s.ctx x).st = .resident || (s.ctx x).st = .saved
      let gone := s.exe.launches.flatMap fun l => (l.groups.filter fun g => State.holds g && g.cluster = cl).map fun g => (l, g)
      let dead := (List.range 4).map fun k => (HealthUnit.core, p + k)
      let s := { s with md.retired := s.md.retired ++ dead.filter fun u => !s.md.retired.contains u }
      let s := if s.saving then { s with md.lost := cl :: s.md.lost } else s.replaceCluster cl
      if !acts then s
      else user.elim (gone.foldl (fun s p => s.displace p.1 p.2) s) fun x =>
        (gone.foldl (fun s p => s.displace p.1 p.2) s).shrink x cl)

end Sys2Proof.Machine
end

