-- ==== Sys2Proof/Machine/Module.lean ====
section
/-! DEFINITION. Bring-up and resets, ownership, spares, the alarm, the mailbox, the debug unit's registers, and the writes
of the register window and of host memory (01 R23 to R37, 15 R270, 16 R279, R291, 21 R343, 22 R350 to R353). -/

namespace Sys2Proof.Machine

namespace State

/-! ## The flash (R35, R36) -/

/-- The bytes of an image slot. -/
def imageSlot (s : State) (k : Nat) : List Byte :=
  match mget [] s.md.flash.images k with
  | [] => Config.shippedImage k
  | b => b

def blockSeq (b : List Byte) : Nat := byteField b 8 8

/-- Whether a block has the form of a type (R35). -/
def blockShape (n : Nat) (b : List Byte) : Bool :=
  byteField b 0 4 = 0x4B434642 && byteField b 4 2 = n && byteField b 6 2 = 1 && blockLen b % 16 = 0 && blockLen b ≤ 3968

/-- Whether a block's signer is one of the accepted ones and its signature verifies, an owner's under a key (R35). -/
def signedUnder (key : List Byte) (signers : List Nat) (b : List Byte) : Bool :=
  let who := byteField b 0x14 4
  signers.contains who && (who = 1 || key != []) &&
    Config.sigVerifies who (if who = 1 then [] else key) (b.take (0x20 + blockLen b)) ((b.drop (0x20 + blockLen b)).take 96)

/-- The signers accepted for a block written after shipment (R35): the owner key block is then the current owner's. -/
def signersOf (n : Nat) : List Nat := if n ≤ 2 then [1] else if n = 3 then [1, 2] else [2]

/-- Whether the stored owner key block may be applied (R35): the shipped one is signed by Hokural, a later one by the owner key it
replaced. -/
def keyBlockOk (s : State) : Bool :=
  let b := s.block 4
  blockShape 4 b &&
    (if mget [] s.md.flash.blocks 4 = [] then signedUnder [] [1] b else signedUnder s.md.flash.keyBefore [2] b)

/-- The owner's public key: none, as the empty key, where its block does not verify (R35). -/
def ownerKey (s : State) : List Byte := if s.keyBlockOk then blockPayload (s.block 4) else []

/-- Whether a block that replaces the stored one is signed as its type asks. -/
def blockSigned (s : State) (n : Nat) (b : List Byte) : Bool := signedUnder s.ownerKey (signersOf n) b

/-- Whether a stored block may be applied (R35). -/
def blockOk (s : State) (n : Nat) : Bool :=
  if n = 4 then s.keyBlockOk else blockShape n (s.block n) && s.blockSigned n (s.block n)

/-! ## The alarm (R29) -/

def alarmBit : AlarmCause → Nat
  | .clock => 0
  | .volt => 1
  | .debug => 2
  | .auth => 3

/-- Every context free and every queue idle, every task gone, nothing signalled (R24, R29); the plane counts its cycles from now on
(R355). -/
def killAll (s : State) : State :=
  let cores := s.tasks.map fun t => { CoreTask.empty t.id.core with pipe.seen := t.pipe.seen, lm.planeMark := s.now }
  { s with t := cores.headD (CoreTask.empty 0), rest := cores.drop 1,
           mem := { s.mem with slices := [], sliceBad := [], miles := [], tlbCore := [], tlbCluster := [], tlbDie := [] },
           exe := { s.exe with ctxs := [], queues := [], launches := [], saved := [], points := [], lastCtx := [], wake := 0,
                               lastPlaced := [], deferred := [], torn := [], late := [] },
           net.routes := [] }

/-- The security alarm: keys zeroed, contexts killed, the cause recorded, the module locked; a handover or a reset in
progress is abandoned (R29, R35). A mailbox command that is busy is dropped, its result never reported (DESIGN CHOICE;
notes/assumptions 43). -/
def alarm (s : State) (c : AlarmCause) : State :=
  let s := s.killAll
  let bit : BitVec 4 := BitVec.ofNat 4 (2 ^ alarmBit c)
  let pend := s.md.own.pending ≠ 0
  { s with
    md.keys := [], md.credential := none, md.locked := true,
    md.own := { s.md.own with alarm := s.md.own.alarm ||| bit, pending := 0, owner := if pend then 0 else s.md.own.owner,
                              prev := 0, mbBusy := false },
    md.flash := { s.md.flash with causes := s.md.flash.causes ||| bit,
                                  records := s.md.flash.records ++ [(alarmBit c, s.deviceTime)],
                                  revoked := BitVec.ofNat 64 (max s.md.flash.revoked.toNat (blockSeq (s.block 5))) } }

/-! ## Bring-up (R25) -/

/-- Step 1 on one image slot: whether it passes, and the failure count after. -/
def tryImage (s : State) (k : Nat) : Bool × State :=
  if Config.imageAuthentic s.ownerKey (s.imageSlot k) then (true, { s with md.flash.authFails := 0 })
  else (false, { s with md.flash.authFails := s.md.flash.authFails + 1 })

/-- The map of logical to physical units of a kind, in order within a die or stack (R14). -/
def plainMap (n per : Nat) : FMap (BitVec 16) :=
  ((List.range n).map fun k => (k, BitVec.ofNat 16 (k / per * 32 + k % per))).filter fun e => e.2 ≠ 0

/-- The kinds of unit by the numbers of Config.spareRetired. -/
def unitKind (k : Nat) : HealthUnit := if k = 0 then .core else if k = 1 then .slice else .chan

/-- One die's or stack's table from wished places: each logical unit takes the place it asks for, or, where that is taken, the lowest
free one (R14). -/
def legalTable (per : Nat) (wish : Nat → Nat) : Nat → List Nat
  | 0 => []
  | n + 1 =>
    let l := legalTable per wish n
    let i := wish n % per
    l ++ [if l.contains i then ((List.range per).find? fun k => !l.contains k).getD 0 else i]

/-- The remap table of a kind as the spare-map block states it: a logical unit keeps its die or stack (R14, R33), and what else the
payload says, whose layout is not given, is free. -/
def statedMap (p : List Byte) (kind dies n per : Nat) : FMap (BitVec 16) :=
  ((List.range dies).flatMap fun d =>
    (legalTable per (fun k => Config.spareStart p kind (n * d + k)) n).zipIdx.map fun e =>
      (n * d + e.2, BitVec.ofNat 16 (32 * d + e.1))).filter fun e => e.2 ≠ 0

/-- The remap tables and the retired units that bring-up starts from: those of the spare-map block, or, where it fails, every unit
in service; a unit marked before stays retired, and a spare stands for each retired unit (R24, R25 step 2, R28, R35). -/
def buildMaps (s : State) : State :=
  let p := blockPayload (s.block 3)
  let ok := s.blockOk 3
  let table (kind dies n per : Nat) : FMap (BitVec 16) := if ok then statedMap p kind dies n per else plainMap (dies * n) n
  let told := if ok then (Config.spareRetired p).map fun r => (unitKind r.1, r.2) else []
  let s := { s with
    md.mapCluster := table 0 8 24 26, md.mapSlice := table 1 8 16 17, md.mapChan := table 2 16 16 17,
    md.retired := s.md.retired ++ told.filter fun u => !s.md.retired.contains u }
  s.md.retired.foldl (fun s r => (s.logicalOf r.1 r.2).elim s fun l => s.substitute r.1 l) s

/-- A link starts training: the window code takes effect on it, and its train record goes out (R337, R338, R340). -/
def startTraining (s : State) (l : Nat) : State :=
  s.setLink l fun k =>
    { k with st := .training, pwin := none, win := s.net.win, discard := false }.send s.now
      (.train s.net.win k.lanes k.nextChunk s.clockId)

/-- Links as bring-up leaves them: enabled, in training (R25 step 5, R338, R343). -/
def linksUp (s : State) : State :=
  (List.range 16).foldl (fun s l => (s.setLink l fun _ => { Link.reset with en := true, errThr := 4096 }).startTraining l) s

/-- Step 6: once no link is in training the module is ready and unowned. A training that ends without a link ends step 5 for that link
(DEDUCED: R338 gives it 100 ms; notes/assumptions 58). -/
def finishBringUp (s : State) : State :=
  if s.md.booted ∧ s.md.cxlUp ∧ !s.md.ready ∧ !s.md.bootfail ∧ !s.md.locked ∧ (List.range 16).all fun l => (s.link l).st ≠ .training then
    { s with md.ready := true, md.own := { s.md.own with owner := 0, pending := 0, prev := 0 } }
  else s

/-- Steps 2 to 5: the blocks applied, the SRAMs scrubbed, links in training. A device that runs alone is its own grandmaster
(R339). -/
def applyBlocks (s : State) : State :=
  if !(s.blockOk 1 && s.blockOk 2 && s.blockOk 4) then { s with md.bootfail := true }
  else
    let five := s.block 5
    let cred : Option (BitVec 32) :=
      if s.blockOk 5 ∧ s.md.flash.revoked.toNat < blockSeq five then
        some (BitVec.ofNat 32 (byteField (blockPayload five) 0 4)) else none
    let s := s.killAll.buildMaps
    linksUp { s with
      md.cxlUp := true, md.stepping := BitVec.ofNat 32 (byteField (blockPayload (s.block 1)) 8 4), md.credential := cred,
      md.own := { s.md.own with thresh := BitVec.ofNat 32 (32 + 32 * 2 ^ 16), owner := 0, pending := 0, prev := 0 },
      exe.frame := 0,
      net := { s.net with win := 2, prio1 := 128, timeSt := .locked, grand := true, master := 0, syncs := 0 } }

/-- Bring-up from step 1 (R25): the two image slots, the alarm when the count of failures reaches four (R29), then the rest. -/
def bringUp (s : State) : State :=
  let s := { s with md.booted := true, md.ready := false, md.bootfail := false, md.gated := false, md.waking := false,
                    md.prov := s.md.flash.causes ≠ 0 }
  let go (s : State) : State := if s.md.flash.authFails = 4 then s.alarm .auth else s
  match s.tryImage 0 with
  | (true, s) => s.applyBlocks
  | (false, s) =>
    let s := go s
    if s.md.locked then s
    else match s.tryImage 1 with
      | (true, s) => s.applyBlocks
      | (false, s) =>
        { go s with md.bootfail := true }

/-- A module reset (R24): contexts killed, registers at their reset values; flash, a latched alarm, the health counts and
retirements survive, and so do memory and device time. -/
def moduleReset (s : State) : State :=
  let k := s.killAll.settleLost
  let r := State.reset
  { k with
    md := { r.md with flash := s.md.flash, healthCore := s.md.healthCore, healthSlice := s.md.healthSlice,
                      healthChan := s.md.healthChan, retired := k.md.retired, failed := k.md.failed, spareOut := k.md.spareOut,
                      cxlUp := s.md.cxlUp,
                      own := { r.md.own with alarm := s.md.own.alarm, nonces := s.md.own.nonces } },
    exe := { r.exe with nextLaunch := s.exe.nextLaunch }, net := { r.net with clock := s.net.clock }, dbg := r.dbg }.bringUp

/-! ## Ownership (R26) -/

/-- An OW write of the two regions that answer from the start: a locked module counts a write that is not the owner's and does
nothing else (R27, R29). -/
def ownWrite (s : State) (m : Master) (f : State → State) : State :=
  if s.answers m then s.owned m fun s => if s.md.locked then s else f s else s

/-! ## The mailbox (R36) -/

/-- A mailbox command by the owner while the mailbox is free: its effect, and the result it will report; 5, and no effect, where
the flash fails under it (R36). -/
def mailbox (s : State) (m : Master) (v : BitVec 32) (cmd : Nat) (f : State → Nat × State) : State :=
  if !s.answers m ∨ v.toNat % 256 ≠ cmd then s
  else s.owned m fun s =>
    if s.md.own.mbBusy then s
    else
      let s := { s with md.own.mbCmd := v, md.own.mbBusy := true }
      let r := if s.md.locked ∧ cmd ≠ 3 then (6, s) else f s
      let r := if s.md.flash.failing ∧ r.1 ≠ 1 ∧ r.1 ≠ 6 then (5, { s with md.flash.failing := false }) else r
      { r.2 with md.own.mbNext := r.1 }

def mbArg (v : BitVec 32) : Nat := v.toNat / 256 % 256
def mbIndex (v : BitVec 32) : Nat := v.toNat / 2 ^ 16

/-- Stores an authenticated block (R35, R36, R37). -/
def storeBlock (s : State) (n : Nat) : Nat × State :=
  let b := (readBytes s.md.own.mbData 0 4096).take (0x80 + byteField (readBytes s.md.own.mbData 0x10 4) 0 4)
  if !blockShape n b then (1, s)
  else if n ≠ 5 ∧ byteField b 0x18 8 ≠ 0 then (1, s)
  else if !s.blockSigned n b then (2, s)
  else if blockSeq b ≤ blockSeq (s.block n) ∨ (n = 5 ∧ blockSeq b ≤ s.md.flash.revoked.toNat) then (3, s)
  else if n = 5 ∧ BitVec.ofNat 64 (byteField b 0x18 8) ≠ Config.nonce s.md.own.nonces then (4, s)
  else
    let s := { s with md.flash := { s.md.flash with blocks := mset [] s.md.flash.blocks n b,
                                                    keyBefore := if n = 4 then s.ownerKey else s.md.flash.keyBefore },
                      md.own.nonces := s.md.own.nonces + 1 }
    if n = 5 then
      (0, { s with md.credential := some (BitVec.ofNat 32 (byteField (blockPayload b) 0 4)), md.own.alarm := 0,
                   md.flash.causes := 0, md.prov := false })
    else (0, s)

/-- The bytes of the flash log (R36). In a 32-byte alarm record the cause stands as its bit number in bytes 0 to 7 and the device time
in bytes 8 to 15; MB_DATA takes the first 4,096 bytes (DESIGN CHOICE; notes/assumptions 43). -/
def logBytes (s : State) : List Byte :=
  let f := s.md.flash
  leBytes 8 f.authFails ++ leBytes 8 f.causes.toNat ++ leBytes 8 f.revoked.toNat ++
    f.records.flatMap fun r => leBytes 8 r.1 ++ leBytes 8 r.2 ++ List.replicate 16 0

/-! ## Debug (R350 to R353) -/

/-- A write of a debug register: by the owner, unlocked, the module awake (R23, R350). -/
def debugWrite (s : State) (m : Master) (f : State → State) : State :=
  if s.md.gated then s else s.ownedServing m fun s => if s.dbg.unlocked then f s else s

/-! ## The register window (R30) -/

/-- Replaces 64 bits of a wide register. -/
def put64 {n : Nat} (r : BitVec n) (k : Nat) (v : Word) : BitVec n :=
  (r &&& ~~~(BitVec.ofNat n ((2 ^ 64 - 1) * 2 ^ (64 * k)))) ||| BitVec.ofNat n (v.toNat * 2 ^ (64 * k))

/-- A write of a context's page (R270, R329). CTX_SLICES and CTX_KEY are written by 64-bit words, the k-th at the register's offset
plus 8k, and a save base or length whose low 16 bits are not zero is kept and used as written (DESIGN CHOICE: R270 gives neither;
notes/assumptions 39). -/
def ctxRegister (s : State) (x off : Nat) (v : Word) : State :=
  s.setCtx x fun c =>
    if off = 0x008 then { c with func := BitVec.ofNat 32 (v.toNat % 32) }
    else if off = 0x00C then { c with policy := v.setWidth 3 }
    else if off = 0x010 then { c with part := v.setWidth 16 }
    else if off = 0x018 then { c with ptroot := v }
    else if off = 0x020 then { c with queues := v }
    else if off = 0x028 then { c with saveBase := v }
    else if off = 0x030 then { c with saveLen := v }
    else if off = 0x040 ∨ off = 0x048 then { c with slices := put64 c.slices ((off - 0x040) / 8) v }
    else if 0x080 ≤ off ∧ off < 0x0C0 ∧ off % 8 = 0 then { c with key := put64 c.key ((off - 0x080) / 8) v }
    else if off = 0x180 then { c with invVa := v }
    else c

/-- A write of the debug region's plain registers (R350, R353). -/
def dbgRegister (s : State) (off : Nat) (v : Word) : State :=
  if 0x020 ≤ off ∧ off < 0x030 ∧ off % 4 = 0 then
    { s with dbg.bp := mset 0 s.dbg.bp ((off - 0x020) / 4) (BitVec.ofNat 32 (v.toNat / 2 ^ 31 % 2 * 2 ^ 31 + v.toNat % 2 ^ 14)) }
  else if off = 0x040 then { s with dbg.trBase := v, dbg.trHead := 0 }
  else if off = 0x048 then { s with dbg.trLen := v.setWidth 32, dbg.trHead := 0 }
  else if off = 0x04C then { s with dbg.trCtl := v.setWidth 2 }
  else if 0x080 ≤ off ∧ off < 0x100 then
    let n := (off - 0x080) / 0x20
    let k := (off - 0x080) % 0x20
    let ch := mget Inject.idle s.dbg.fi n
    let keep : Word := BitVec.ofNat 64 (2 ^ 62)
    let held : Word := BitVec.ofNat 64 (2 ^ 63 + 2 ^ 61 + 2 ^ 60 + (2 ^ 24 - 1) * 2 ^ 32 + 63 * 2 ^ 24 + 63)
    let put (i : Inject) : State := { s with dbg.fi := mset Inject.idle s.dbg.fi n i }
    if k = 0 then put { ch with ctl := (ch.ctl &&& keep) ||| (v &&& held) }
    else if k = 8 then put { ch with sel := v }
    else if k = 0x10 then put { ch with cyc := v }
    else s
  else s

/-- A write of the links region's plain registers (R343). -/
def linkRegister (s : State) (off : Nat) (v : Word) : State :=
  if off < 0x1000 ∧ off % 0x100 = 8 then
    { s with net.links := mmod Link.reset s.net.links (off / 0x100) fun l => { l with errThr := v.setWidth 32 } }
  else if off = 0x2008 then { s with net.prio1 := v.setWidth 8 }
  else if 0x10000 ≤ off ∧ off < 0x20000 ∧ off % 4 = 0 then
    let k := (off - 0x10000) / 4
    let r := BitVec.ofNat 32 (v.toNat / 2 ^ 31 % 2 * 2 ^ 31 + v.toNat / 2 ^ 16 % 16 * 2 ^ 16 + v.toNat % 64)
    { s with net.routes := mset 0 s.net.routes k r }
  else s

/-- A write of the ownership region's plain registers: MB_DATA is an array of bytes, one at each offset (R33). -/
def ownRegister (s : State) (off : Nat) (v : Word) : State :=
  if off = 0x100 then { s with md.own.thresh := v.setWidth 32 }
  else if 0x5000 ≤ off ∧ off < 0x6000 then
    { s with md.own.mbData := writeByte s.md.own.mbData (off - 0x5000) (v.setWidth 8) }
  else s

/-- The owner's registers of the context, debug, links and ownership regions that a plain write reaches (R33, R270, R329,
R343, R350). -/
def isCtxReg (off : Nat) : Bool :=
  [0x004, 0x008, 0x00C, 0x010, 0x018, 0x020, 0x028, 0x030, 0x040, 0x048, 0x180, 0x188].contains off ||
    (0x080 ≤ off && off < 0x0C0 && off % 8 = 0)

def isDbgReg (off : Nat) : Bool :=
  (0x020 ≤ off && off < 0x030 && off % 4 = 0) || off = 0x040 || off = 0x048 || off = 0x04C ||
    (0x080 ≤ off && off < 0x100 && off % 8 = 0 && off % 0x20 < 0x18)

def isLinkReg (off : Nat) : Bool :=
  (off < 0x1000 && off % 0x100 = 8) || off = 0x2008 || (0x10000 ≤ off && off < 0x20000 && off % 4 = 0)

def isOwnReg (off : Nat) : Bool := off = 0x100 || (0x5000 ≤ off && off < 0x6000)

/-- What a host write does to the sealed slots that its bytes lie in (R280, R292). -/
def noteSlots (s : State) (addr : Nat) (data : List Byte) : State :=
  let lw := s.exe.lwBase.toNat
  (List.range data.length).foldl (fun s i =>
    let a := addr + i
    if lw ≤ a ∧ a < lw + 0x40000 then
      let q := (a - lw) / 0x1000
      let j := (a - lw) % 0x1000 / 256
      if (a - lw) % 256 = 255 then s.tear q j else s.writeLate a q j
    else s) s

/-- A host write: into the host-managed range, and, as the host-managed range is main memory, into the sectors there, where every
key reads its bytes as they are, at one timestamp above every earlier access, so that every later access returns it (R265;
notes/assumptions 42). A sector written whole is sound (R195). -/
def hostWrite (s : State) (addr : Nat) (data : List Byte) : State :=
  let pieces := (sectorPieces (data.length / 32 + 2) addr data).filter fun p => p.1 < mainEnd
  let ts := pieces.foldl (fun m p => let h := s.home (p.1 / 128); max m (max h.1 (h.2 + 1))) s.net.clock
  let s := { s with mem.hdm := writeBytes s.mem.hdm addr data, net.clock := ts }
  pieces.foldl (fun s p =>
    let s := s.setHome (p.1 / 128) (ts, ts)
    let bits := BitVec.ofNat 32 ((2 ^ p.2.length - 1) * 2 ^ (p.1 % 32))
    { s with mem.phys := writeBytes s.mem.phys p.1 p.2,
             mem.clear := mmod 0 s.mem.clear (p.1 / 32) (· ||| bits),
             mem.bad := if p.2.length = 32 then s.mem.bad.filter (· ≠ p.1 / 32) else s.mem.bad }) s

/-- The queues whose seals some written bytes set. -/
def sealsIn (s : State) (addr : Nat) (data : List Byte) : List Nat :=
  let lw := s.exe.lwBase.toNat
  (data.zipIdx.filterMap fun b =>
    let a := addr + b.2
    if b.1 = 0xA5 ∧ lw ≤ a ∧ a < lw + 0x40000 ∧ (a - lw) % 256 = 255 then some ((a - lw) / 0x1000) else none)

end State

/-! ## The events -/

/-- POWER_ON (R24, R25, R29): everything volatile at its reset value, the health counts too; the lock is gone, and the
alarm status comes from the flash log. -/
def execPowerOn (s : State) : Out :=
  .next ({ State.reset with
    agenda := s.agenda, now := s.now, md.flash := s.md.flash,
    md.own := { Owner.reset with nonces := s.md.own.nonces + 1, alarm := s.md.flash.causes } }.bringUp)

/-- MOD_RESET (R24): the owner writes the key. -/
def execModReset (m : Master) (v : BitVec 32) (s : State) : Out :=
  .next (s.ownWrite m fun s => if v.toNat = 0x5A5A then s.moduleReset else s)

/-- CXL_CONVENTIONAL_RESET (R24): acts as a module reset that brings the CXL link up anew; a locked module stays locked. -/
def execCxlConventionalReset (s : State) : Out :=
  .next (if s.md.booted ∧ !s.md.locked then { s with md.cxlUp := false }.moduleReset else s)

/-- SECURITY_ALARM (R29): a clock or voltage glitch, or the cause given. -/
def execSecurityAlarm (c : AlarmCause) (s : State) : Out := .next (if s.md.booted then s.alarm c else s)

/-- OWN_CLAIM (R26). -/
def execOwnClaim (m : Master) (v : BitVec 32) (s : State) : Out :=
  .next (if !s.answers m ∨ s.md.locked then s else
    let o := s.md.own
    if v.toNat / 2 ^ 24 = 0x5C ∧ v.toNat % 16 = m.id.val ∧ m.id ≠ 0 ∧
        (if o.pending = 0 then o.owner = 0 else o.pending = m.id.val) then
      { s with md.own := { o with owner := m.id.val, pending := 0, prev := 0 } }
    else s)

/-- OWN_HANDOVER (R26): ownership is held by no master until the target claims. -/
def execOwnHandover (m : Master) (v : BitVec 32) (s : State) : Out :=
  .next (s.ownWrite m fun s =>
    let k := v.toNat % 16
    if 1 ≤ k ∧ k ≤ 3 ∧ k ≠ m.id.val then
      { s with md.own := { s.md.own with pending := k, prev := s.md.own.owner, owner := 0 } }
    else s)

/-- HANDOVER_TIMEOUT (R26): the target has not claimed within 1 ms. -/
def execHandoverTimeout (s : State) : Out :=
  .next (if s.md.own.pending ≠ 0 then
      { s with md.own := { s.md.own with owner := s.md.own.prev, pending := 0, prev := 0 } }
    else s)

/-- OWN_RELEASE (R26). -/
def execOwnRelease (m : Master) (v : BitVec 32) (s : State) : Out :=
  .next (s.ownWrite m fun s => if bitOf v 0 then { s with md.own.owner := 0 } else s)

/-- OWNER_PATH_LOSS (R26): the owner's path has been down for 100 ms. -/
def execOwnerPathLoss (s : State) : Out :=
  .next (if s.md.own.owner ≠ 0 ∧ !s.md.locked then { s with md.own.owner := 0 } else s)

/-- MAINTENANCE_WINDOW (R28): the owner opens a window, and the substitutions that wait for one take place. -/
def execMaintenanceWindow (m : Master) (v : BitVec 32) (s : State) : Out :=
  .next (s.ownWrite m fun s => if bitOf v 0 then { s with md.own.window := true }.later .window else s)

/-- CORRECTED_ECC_EVENT (R28, R356): the unit's health count rises, and counter 16 of the context that uses it. -/
def execCorrectedEccEvent (u : HealthUnit) (n : Nat) (s : State) : Out :=
  .next (let limit := match u with | .core => 832 | .slice => 136 | .chan => 272
    if n < limit ∧ s.md.booted then
      let s' := s.charge u n
      match (s.logicalOf u n).bind (s.userOf u) with
      | some x => s'.count x 16 1
      | none => s'
    else s)

/-- READ_BLOCK (R36). -/
def execReadBlock (m : Master) (v : BitVec 32) (s : State) : Out :=
  .next (s.mailbox m v 1 fun s =>
    if 1 ≤ State.mbArg v ∧ State.mbArg v ≤ 5 ∧ State.mbIndex v = 0 then
      (0, { s with md.own.mbData := writeBytes s.md.own.mbData 0 ((s.block (State.mbArg v)).take 4096) })
    else (1, s))

/-- WRITE_BLOCK (R36). -/
def execWriteBlock (m : Master) (v : BitVec 32) (s : State) : Out :=
  .next (s.mailbox m v 2 fun s =>
    if 1 ≤ State.mbArg v ∧ State.mbArg v ≤ 5 ∧ State.mbIndex v = 0 then s.storeBlock (State.mbArg v) else (1, s))

/-- READ_FLASH_LOG (R36). -/
def execReadFlashLog (m : Master) (v : BitVec 32) (s : State) : Out :=
  .next (s.mailbox m v 3 fun s =>
    if State.mbArg v = 0 ∧ State.mbIndex v = 0 then
      (0, { s with md.own.mbData := writeBytes s.md.own.mbData 0 (s.logBytes.take 4096) })
    else (1, s))

/-- WRITE_IMAGE_CHUNK (R36). -/
def execWriteImageChunk (m : Master) (v : BitVec 32) (s : State) : Out :=
  .next (s.mailbox m v 4 fun s =>
    let k := State.mbArg v
    if k < 2 then
      let off := 4096 * State.mbIndex v
      let old := s.imageSlot k
      let new := fit off old ++ readBytes s.md.own.mbData 0 4096 ++ old.drop (off + 4096)
      (0, { s with md.flash.images := mset [] s.md.flash.images k new, md.flash.verified := mset false s.md.flash.verified k false })
    else (1, s))

/-- COMMIT_IMAGE_SLOT (R36). -/
def execCommitImageSlot (m : Master) (v : BitVec 32) (s : State) : Out :=
  .next (s.mailbox m v 5 fun s =>
    let k := State.mbArg v
    if k < 2 ∧ State.mbIndex v = 0 then
      let ok := Config.imageAuthentic s.ownerKey (s.imageSlot k)
      (if ok then 0 else 2, { s with md.flash.verified := mset false s.md.flash.verified k ok })
    else (1, s))

/-- MB_CMD_BAD_COMMAND (R36): a code outside 1 to 5. -/
def execMbCmdBadCommand (m : Master) (v : BitVec 32) (s : State) : Out :=
  .next (let c := v.toNat % 256
    if 1 ≤ c ∧ c ≤ 5 then s else s.mailbox m v c fun s => (1, s))

/-- MAILBOX_COMMAND_COMPLETE (R36): the result is set and busy clears. -/
def execMailboxCommandComplete (s : State) : Out :=
  .next (if s.md.own.mbBusy then
      { s with md.own := { s.md.own with mbResult := s.md.own.mbNext, mbNext := 0, mbBusy := false } }
    else s)

/-- DBG_UNLOCK (R350): the credential unlocks; once one is held any other value fires the alarm. -/
def execDbgUnlock (m : Master) (v : BitVec 32) (s : State) : Out :=
  .next (if s.md.gated then s
    else s.ownedServing m fun s => match s.md.credential with
      | none => s
      | some c => if v = c then { s with dbg.unlocked := true } else s.alarm .debug)

/-- DBG_TGT (R351). -/
def execDbgTgt (m : Master) (v : Word) (s : State) : Out :=
  .next (s.debugWrite m fun s =>
    let s := s.onTasks (fun _ => true) fun t => { t with ctl.dbgReq := false }
    { s with exe.saved := s.exe.saved.map (fun (t : CoreTask) => { t with ctl.dbgReq := false }),
             dbg.asked := [], dbg.tgt := v &&& BitVec.ofNat 64 (2 ^ 63 + (2 ^ 24 - 1) * 2 ^ 32 + 63 * 2 ^ 24),
             dbg.bp := (s.dbg.bp.map fun (e : Nat × BitVec 32) => (e.1, e.2 &&& 0x3FFF)).filter fun e => e.2 ≠ 0 })

/-- DEBUG_STOP_REQUEST (R351, R352): DBG_CTL[0] asks every replica of the target to stop, one that is still to be loaded too. -/
def execDebugStopRequest (m : Master) (v : BitVec 32) (s : State) : Out :=
  .next (s.debugWrite m fun s =>
    if bitOf v 0 then
      let there (r : Nat) : Bool := (s.tasks ++ s.exe.saved).any fun t => s.isTarget t && t.id.replica = r
      { s.onWhole s.isTarget fun t => { t with ctl.dbgReq := true } with dbg.asked := (List.range 3).filter fun r => !there r }
    else s)

/-- REGISTER_WRITE (R6, R27, R30): a write of a register with no behaviour of its own; one that is denied, of a read-only
register or of a reserved offset, is ignored. -/
def execRegisterWrite (m : Master) (addr : Nat) (v : Word) (s : State) : Out :=
  .next (let off := addr % 0x100000
    match addr / 0x100000 with
    | 1 =>
      let q := off / 0x1000
      if q < 64 ∧ off % 0x1000 = 0x00C ∧ s.mayQueue m q then s.setQueue q fun c => { c with stallCfg := v.setWidth 32 } else s
    | 2 =>
      if off < 0x40000 ∧ State.isCtxReg (off % 0x1000) then
        s.ownedServing m fun s =>
          if off % 0x1000 = 0x188 then s.invalidate (off / 0x1000) (v.setWidth 2) else s.ctxRegister (off / 0x1000) (off % 0x1000) v
      else s
    | 3 =>
      if off = 0 ∧ !s.md.gated then
        s.ownedServing m fun s => { s with exe.lwBase := BitVec.ofNat 64 (v.toNat / 2 ^ 16 * 2 ^ 16) }
      else s
    | 4 => if State.isDbgReg off then s.debugWrite m fun s => s.dbgRegister off v else s
    | 5 => if State.isLinkReg off then s.ownedServing m fun s => s.linkRegister off v else s
    | 6 => if State.isOwnReg off then s.ownWrite m fun s => s.ownRegister off v else s
    | _ => s)

/-- HOST_MEMORY_ACCESS (R19, R23, R265, R280): the bytes of a host write land, also while the module is gated; the write of a
sealed slot tears its record (R292); a read changes nothing. -/
def execHostMemoryAccess (addr : Nat) (data : List Byte) (s : State) : Out :=
  if 2 ^ 64 < addr + data.length then .fault .outsideAddressSpace
  else
    .next (if s.md.ready then
        (s.sealsIn addr data).foldl (fun s q => if s.md.locked then s else s.monitor q)
          ((s.noteSlots addr data).hostWrite addr data)
      else s)

end Sys2Proof.Machine
end

