-- ==== Sys2Proof/Machine/Inject.lean ====
section
/-! DEFINITION. Fault injection (22 R353). -/

namespace Sys2Proof.Machine

namespace CoreTask

/-- Inverts one bit of a location of the task; nothing where the task does not hold it (R353). -/
def flip (t : CoreTask) (kind loc bit : Nat) : CoreTask :=
  let m : Word := BitVec.ofNat 64 (2 ^ bit)
  match kind with
  | 0 => if loc < 32 then let r := SReg.s (fin 32 loc); t.setSReg t.level r (t.sreg r ^^^ m) else t
  | 1 =>
    if loc < 1024 * t.code.nTiles ∧ bit < 32 then
      let d := RowAt.tile (loc / 1024) (loc / 64 % 16)
      t.setRow 0 d (t.row d ^^^ BitVec.ofNat 2048 (2 ^ (32 * (loc % 64) + bit)))
    else t
  | 2 =>
    if loc < 1024 * t.code.nAccs then { t with r.acc := mset 0 t.r.acc loc (mget 0 t.r.acc loc ^^^ m) } else t
  | 3 =>
    if loc < t.usable ∧ bit < 8 then
      { t with lm.scratch := writeByte t.lm.scratch loc (readByte t.lm.scratch loc ^^^ m.setWidth 8) }
    else t
  | _ => t

end CoreTask

namespace State

/-- Whether a channel's moment has come for the current task: it is about to issue its next group and has issued exactly
DBG_FIn_CYC groups (R353). -/
def injectDue (s : State) (n : Nat) : Bool :=
  let c := mget Inject.idle s.dbg.fi n
  let t := s.t
  bitOf c.ctl 63 && t.id.launch != 0 && t.id.idx = c.ctl.toNat / 2 ^ 32 % 2 ^ 24 && t.id.ctx = c.ctl.toNat / 2 ^ 24 % 64 &&
    t.id.replica = c.ctl.toNat / 2 ^ 60 % 4 && t.ctl.st = .running && t.pipe.waits.isEmpty && t.pipe.hold = 0 &&
    t.r.lcycle = c.cyc

/-- The injection of one channel: the flip, armed cleared and fired set (R353). -/
def inject (s : State) (n : Nat) : State :=
  if s.injectDue n then
    let c := mget Inject.idle s.dbg.fi n
    let k := c.sel.toNat / 2 ^ 60
    { s.onT fun t => t.flip k (c.sel.toNat % 2 ^ 60) (c.ctl.toNat % 64) with
      dbg.fi := mset Inject.idle s.dbg.fi n
        { c with ctl := (c.ctl &&& ~~~(BitVec.ofNat 64 (2 ^ 63))) ||| BitVec.ofNat 64 (2 ^ 62) } }
  else s

/-- The four channels, after the results of a cycle are visible and before its group issues (R353). -/
def injectAll (s : State) : State := (List.range 4).foldl inject s

end State

/-- FAULT_INJECTION (R353): a channel's task is about to issue the group that its count names, with every result due in that cycle
visible; a frozen cycle issues none. -/
def execFaultInjection (ch : Fin 4) (s : State) : Out :=
  let c := mget Inject.idle s.dbg.fi ch.val
  .next (match s.tasks.find? fun t => t.id.idx = c.ctl.toNat / 2 ^ 32 % 2 ^ 24 && t.id.ctx = c.ctl.toNat / 2 ^ 24 % 64 &&
      t.id.replica = c.ctl.toNat / 2 ^ 60 % 4 && t.r.lcycle = c.cyc && t.id.launch != 0 with
    | some t => s.atCore t.id.core fun s =>
      if s.injectDue ch.val ∧ s.t.pipe.freeze = 0 ∧ !s.t.resultLate ∧ !s.t.landDue.awaitsLoad then
        (s.onT (·.landDue)).inject ch.val
      else s
    | none => s)

end Sys2Proof.Machine
end

