-- ==== Sys2Proof/Machine/Links.lean ====
section
/-! DEFINITION. The device links, device time and remote traffic (21 R335 to R344, 13 R255 to R257). -/

namespace Sys2Proof.Machine

namespace State

/-! ## Losing a link (R338, R339) -/

/-- The time state after a link stops carrying traffic (R339). A device that runs alone is locked to itself. -/
def masterCheck (s : State) (l : Nat) : State :=
  let alone := !(List.range 16).any fun k => (s.link k).live
  let self : State := { s with net.timeSt := .locked, net.grand := true, net.master := 0, net.syncs := 0 }
  let lost := !s.net.grand && s.net.master = l && !(s.link l).live
  match s.net.timeSt with
  | .locked => if lost then { s with net.timeSt := .holdover, net.syncs := 0 } else s
  | .locking => if lost then (if alone then self else { s with net.timeSt := .free, net.syncs := 0 }) else s
  | .free => if alone then self else s
  | .holdover => s

/-- Notes with every replica that waits for a published command of the current task whether all of it has been admitted (R257). -/
def setAdmitted (s : State) (c : Cmd) (all : Bool) : State :=
  s.onSet c fun t =>
    { t with eng.away := t.eng.away.map fun (a : Away) => if a.ord = c.ord && c.pub then { a with admitted := all } else a }

/-- Every unacknowledged chunk of a link is reported lost: its command ends with 0x08, reason 6, and goes on from the
acknowledged chunks when it resumes (R338). -/
def loseChunks (s : State) (l : Nat) : State :=
  let s := (s.link l).chunks.foldl (fun s ch =>
    if ch.lost then s
    else s.atCore ch.core fun s =>
      if s.t.id.launch = ch.launch ∧ s.t.id.idx = ch.idx then
        match s.t.eng.cmds.find? fun c => c.ord = ch.ord with
        | some c =>
          let c' := { c with units := c.acked }
          let s := (s.onT (·.setCmd c')).setAdmitted c false
          if c.faulted then s else s.faultCmd c' 6
        | none => s
      else s) s
  s.setLink l fun k => { k with chunks := k.chunks.map fun (ch : Chunk) => { ch with lost := true }, unacked := [],
                                tail := 0, credits := 0, gated := false, waiting := false }

/-- A link leaves up or degraded, or its training, for a state without traffic (R338). -/
def dropLink (s : State) (l : Nat) (st : LinkSt) (why : Nat) : State :=
  (((s.setLink l fun k =>
    { k with st, why := if st = .failed then k.why else why, pwin := none, announce := none, discard := false }).loseChunks l)).masterCheck l

/-- Whether the command of a chunk is still there, on its core or saved. -/
def chunkKnown (s : State) (ch : Chunk) : Bool := (s.tasks ++ s.exe.saved).any fun t =>
  t.id.launch = ch.launch && t.id.idx = ch.idx && t.eng.cmds.any fun c => c.ord = ch.ord

/-! ## Sending (R256, R340, R341) -/

/-- The route entry of a kind-2 address in the current context (R341). -/
def routeOf (s : State) (a : Word) : BitVec 32 := mget 0 s.net.routes (256 * s.t.id.ctx + engUnit a)

/-- The message that carries a unit of a link command: the offset of its remote address, kind, length and data; the state
after reading the source. The error is the reason of R209. -/
def linkUnit (s : State) (c : Cmd) (u : Nat) : Except Nat (Nat × Nat × List Byte × State) :=
  if c.op = .sig then .ok (3, engOffset (c.dv 1), leBytes 4 (c.dv 6).toNat, s)
  else
    let (row, col, _) := chunkOf c u
    match s.sourceChunk c u with
    | .error e => .error e
    | .ok (bs, s) =>
      match s.rowSpot (c.dv 1) (c.dv 4) row col with
      | none => .error 4
      | some (_, off) => .ok (if c.op = .cpyl then 1 else 2, off, bs, s)

/-- Whether a chunk of n bytes that a link admits now fits into the flits kept for replay (R336) and reaches the partner before the
start of window N + 2, behind the flits that have not left yet, with 128 flits of replay and 100 ns to spare, at 2.56 ns a flit
(R340). -/
def meetsBound (s : State) (k : Link) (n : Nat) : Bool :=
  let w := k.windowNs
  let t := s.deviceTime
  let flits := (k.place s.now 1 ((16 + n + 7) / 8 * 8)).2.2
  let left := max k.freeAt (100 * s.now) - 100 * s.now + 512 * flits
  decide (k.outstanding + flits ≤ 128) && decide (left + 2 * (128 * 256 + 10000) < 200 * ((t / w + 2) * w - t))

/-- Sends a chunk: it takes a credit and is kept until its acknowledgement, a lost one in its old place (R336, R337). -/
def sendChunk (k : Link) (now : Nat) (ch : Chunk) : Link :=
  let again := k.chunks.any fun o => o.lost && o.seq = ch.seq
  { k.send now (.msg ch.kind ch.msg) with
    credits := k.credits - 1, nextChunk := if again then k.nextChunk else ch.seq + 1,
    chunks := if again then k.chunks.map (fun o => if o.seq = ch.seq then ch else o) else k.chunks ++ [ch] }

/-- Goes past a unit of a command that has been admitted: the last one admits a published command whole (R257). -/
def passUnit (s : State) (c : Cmd) : State :=
  (s.onT (·.setCmd { c with units := c.units + 1 })).setAdmitted c (c.units + 1 = c.total)

/-- The global addresses of the first and the last source byte of a command's next unit; none where it reads no global address. -/
def sourceEnds (c : Cmd) : List Nat :=
  let (row, col, n) := chunkOf c c.units
  let off := engOffset (c.dv 0) + row * (c.dv 3).toInt + col
  if c.op ≠ .sig ∧ kindOf (c.dv 0) = 0 ∧ (2 : Int) ^ 24 ≤ off then [off.toNat, off.toNat + n - 1] else []

/-- Admits the next chunk of a running link command of the current task, or leaves it for a later window, as in a lane swap (R338,
R340). A chunk lost with its link goes out first, under its own number, by itself when its command is no more; a unit that is on
its way or has been acknowledged is not sent again (R336). -/
def admitChunk (s : State) (c : Cmd) : State :=
  let r := s.routeOf (c.dv 1)
  let l := r.toNat / 2 ^ 16 % 16
  let k := s.link l
  let w := k.windowNs
  let mine (ch : Chunk) : Bool := ch.launch = s.t.id.launch && ch.idx = s.t.id.idx && ch.ord = c.ord && ch.unit = c.units
  if !bitOf r 31 || !k.live || k.absent.contains (r.toNat % 64) then s.faultCmd c 6
  else if s.net.timeSt = .free ∨ s.net.timeSt = .locking then s
  else if k.gated then
    if k.waiting then s else s.setLink l fun k => { k.send s.now .wake with waiting := true }
  else if c.ahead.contains c.units || k.chunks.any (fun ch => !ch.lost && mine ch) then s.passUnit c
  else if s.deviceTime < k.swapEnd ∨ k.credits = 0 then s
  else
    let old := k.chunks.find? (·.lost)
    match old.filter fun ch => !mine ch with
    | some ch =>
      if s.chunkKnown ch || !s.meetsBound k ch.bytes then s
      else s.setLink l fun k => sendChunk k s.now { ch with lost := false }
    | none => match s.linkUnit c c.units with
      | .error e => s.faultCmd c e
      | .ok (kind, va, bs, s') =>
        if !s.meetsBound k bs.length then s
        else
          let seq := match old with | some ch => ch.seq | none => k.nextChunk
          let msg : LinkMsg :=
            { va := BitVec.ofNat 48 va, ctx := fin 64 r.toNat, op := fin 16 (if kind = 2 then c.red else 0), tag := c.tag, seq, data := bs }
          let ch : Chunk :=
            { link := l, seq, core := s.t.id.core, launch := s.t.id.launch, idx := s.t.id.idx, ord := c.ord, unit := c.units,
              bytes := bs.length, lost := false, kind, msg, ctx := s.t.id.ctx, pages := sourceEnds c }
          ((s'.setLink l fun k => sendChunk k s.now ch).passUnit c).onSet c fun t =>
            { t with eng.linkWins := CoreTask.noteWindow c.ord ((s.deviceTime / w + 2) * w + 50) t.eng.linkWins }

/-! ## Receiving (R336, R337, R341, R342) -/

/-- Whether a context of this device receives remote traffic (R341). -/
def receives (s : State) (x : Nat) : Bool :=
  match (s.ctx x).st with
  | .free | .destroyed | .resetting => false
  | _ => true

/-- The new bytes of a reduction at the port and the flags it raises (R212, R342). -/
def remoteReduce (m : LinkMsg) (old : List Byte) : List Byte × Flags :=
  let n := if m.op.val = 1 then 8 else 4
  let l := ((elemsOf n 64 old).zip (elemsOf n 64 m.data)).map fun p => reduce m.op.val (Config.remoteFtz m.seq) p.1 p.2
  (l.flatMap fun v => leBytes n v.1, l.foldl (fun f v => f ||| v.2) 0)

/-- Every core of the module comes level with the clock the agents share, so that no lease outlives a write that has joined the
order: a load issued from now on returns it (R256). -/
def joinClocks (s : State) : State := s.onTasks (fun _ => true) fun t => { t with lm.clock := max t.lm.clock s.net.clock }

/-- Applies a message at the destination port: the flags, and the state unless it is refused. -/
def applyMessage (s : State) (kind : Nat) (m : LinkMsg) : Option (Flags × State) :=
  let x := m.ctx.val
  let va := m.va.toNat
  if !s.receives x || !s.mapped x va m.data.length (if kind = 2 then .rw else .w) then none
  else if kind = 2 then
    match s.agentRead x va m.data.length with
    | none => none
    | some old =>
      let r := remoteReduce m old
      some (r.2, (s.agentWrite x va r.1).joinClocks)
  else some (0, (s.agentWrite x va m.data).joinClocks)

/-- Takes a received message: applied or refused in sequence, answered again when it is a duplicate, else a negative
acknowledgement of its flit; a message that is answered frees its buffer (R336, R337). -/
def receive (s : State) (l kind : Nat) (m : LinkMsg) : State :=
  let k := s.link l
  let room := itemRoom (.msg kind m)
  let answer (k : Link) (flags : Flags) (refused dup : Bool) : Link :=
    ((k.send s.now (.accept flags refused dup m.seq)).send s.now (.credit 1)).heardData room
  if !k.hears then s
  else if m.seq = k.last + 1 then
    let r := s.applyMessage kind m
    let s := match r with | some p => p.2 | none => s
    s.setLink l fun k => { answer k (match r with | some p => p.1 | none => 0) r.isNone false with last := m.seq }
  else if serialGe k.last m.seq then s.setLink l fun k => answer k 0 false true
  else s.setLink l fun k => k.send s.now (.nak (if k.rxData % 248 = 0 then k.rxFlit else k.rxFlit - 1))

/-- An item other than a message arrives on a link that takes flits. -/
def arriveOn (s : State) (l : Nat) (f : Link → Link) : State :=
  if (s.link l).hears then s.setLink l fun k => f k.heard else s

/-- The units of a link command up to which every one has been acknowledged, once one more has been, and those beyond. -/
def ackUnit (c : Cmd) (u : Nat) : Nat × List Nat :=
  let l := if c.acked ≤ u then u :: c.ahead else c.ahead
  let n := l.foldl (fun n _ => if l.contains n then n + 1 else n) c.acked
  (n, l.filter (n ≤ ·))

/-- The acknowledgement of a chunk to the current task: its bytes count as delivered, with the flags of the remote port, or
its command ends refused, reason 9, or 6 where the partner has not configured the context (R209, R214, R262, R320, R341). -/
def acknowledged (s : State) (ch : Chunk) (flags : Flags) (refused : Bool) : State :=
  if s.t.id.launch ≠ ch.launch ∨ s.t.id.idx ≠ ch.idx then s
  else match s.t.eng.cmds.find? fun c => c.ord = ch.ord with
    | none => s
    | some c =>
      if refused then
        let c := { c with units := c.acked }
        if c.faulted then s.onT (·.setCmd c)
        else s.faultCmd c (if (s.link ch.link).absent.contains ch.msg.ctx.val then 6 else 9)
      else
        let n := ackUnit c ch.unit
        let c' := { c with acked := n.1, ahead := n.2, bytes := c.bytes + ch.bytes, flags := c.flags ||| flags }
        let s := (s.onT (·.setCmd c')).toSet c (.count c.ctr ch.bytes)
        let s := s.countMile s.t.id.ctx c.tag ch.bytes
        let s := s.count s.t.id.ctx 11 ch.bytes
        if unitsDone c' && !c.cw then s.completeCmd c' else s

/-- The acknowledgements and the deliveries held in a freeze reach the core when it thaws (R73). -/
def thaw (s : State) : State :=
  (s.t.eng.acks.foldl (fun s a => s.acknowledged a.1 a.2.1 a.2.2) (s.onT fun t => { t with eng.acks := [] })).onT fun t =>
    if t.heldOff then t else t.settleDrops

/-- An acknowledgement arrives: in a freeze it is held until the core thaws (R73). -/
def accepted (s : State) (l : Nat) (flags : Flags) (refused : Bool) (seq : BitVec 32) : State :=
  match (s.link l).chunks.find? fun ch => ch.seq = seq && !ch.lost with
  | none => s
  | some ch =>
    (s.setLink l fun k => { k with chunks := k.chunks.filter (· ≠ ch) }).atCore ch.core fun s =>
      if s.t.pipe.freeze = 0 then s.acknowledged ch flags refused
      else s.onT fun t => { t with eng.acks := t.eng.acks ++ [(ch, flags, refused)] }

/-! ## Training (R338) -/

/-- The lanes a link runs on, and whether the spare is among them: none with fewer than four good lanes. A spare in use never goes
back: a link that uses it needs it (R338). -/
def lanesFor (inUse good : BitVec 5) : Option (BitVec 5 × Bool) :=
  if bitOf inUse 4 then
    if inUse &&& good = inUse then some (inUse, true) else if popcount good = 4 && bitOf good 4 then some (good, true) else none
  else if good &&& 0x0F = 0x0F then some (0x0F, false)
  else if popcount good = 4 then some (good, true)
  else none

/-! ## Device time (R339) -/

/-- Whether one clock comes before another in the default best master clock algorithm: priority 1, quality, identity and steps
removed, the lower the better. -/
def clockBefore (a b : Byte × Word × Word × BitVec 16) : Bool :=
  decide (a.1 < b.1) || (a.1 = b.1 && (decide (a.2.1 < b.2.1) || (a.2.1 = b.2.1 &&
    (decide (a.2.2.1 < b.2.2.1) || (a.2.2.1 = b.2.2.1 && decide (a.2.2.2 < b.2.2.2))))))

/-- The link whose partner announces the best clock, when that is better than the module's own, formed of LNK_TPRIO and its
identity. -/
def bestMaster (s : State) : Option Nat :=
  ((List.range 16).foldl (fun (b : Option Nat × (Byte × Word × Word × BitVec 16)) l =>
    match (s.link l).announce with
    | some c => if (s.link l).live && clockBefore c b.2 then (some l, c) else b
    | none => b) (none, (s.net.prio1, Config.clockQuality, s.clockId, 0))).1

/-- The state decision after an announcement: a new master is locked to from the start; a module whose own clock is the best is its
own grandmaster. -/
def selectMaster (s : State) : State :=
  match s.bestMaster with
  | some l =>
    if !s.net.grand && s.net.master = l && (s.net.timeSt = .locking || s.net.timeSt = .locked) then s
    else { s with net.timeSt := .locking, net.master := l, net.grand := false, net.syncs := 0 }
  | none => if s.net.grand then s else { s with net.timeSt := .locked, net.grand := true, net.master := 0, net.syncs := 0 }

/-- A synchronisation from the master, which arrived so long after its origin timestamp: the offset, less the delay of the peer,
corrects device time, the sixteenth in a row within 50 ns locks it, and the boundary clock synchronises its other partners. -/
def synchronise (s : State) (l : Nat) (after : Word) : State :=
  let offset := after - (s.link l).delay
  let o := offset.toInt
  let n := if o.natAbs ≤ 50 then s.net.syncs + 1 else 0
  let s := { s with net.offset := offset, timeOff := s.timeOff - o, net.syncs := min n 16,
                    net.timeSt := if s.net.timeSt = .locking ∧ 16 ≤ n then .locked else s.net.timeSt }
  (List.range 16).foldl (fun s j => if j ≠ l ∧ (s.link j).live then s.sendSync j else s) s

/-- A Pdelay_Resp: the peer's delay is half of what the exchange took without its turnaround (R339). -/
def heardDelay (s : State) (l : Nat) (turnaround : Word) : State :=
  match (s.link l).asked with
  | some t0 =>
    let d : Int := (s.deviceTime : Int) - t0.toInt - turnaround.toInt
    s.setLink l fun k => { k with asked := none, delay := BitVec.ofInt 64 (d / 2) }
  | none => s

end State

/-! ## The events -/

/-- LNK_CTL (R338, R343). -/
def execLnkCtl (m : Master) (l : Fin 16) (v : BitVec 32) (s : State) : Out :=
  .next (s.ownedServing m fun s =>
    let en := bitOf v 0
    let s := s.setLink l.val fun k => { k with en }
    match (s.link l.val).st, en with
    | .down, true => s.startTraining l.val
    | .down, false | .training, true | .up, true | .degraded, true | .failed, true => s
    | .training, false | .up, false | .degraded, false => s.dropLink l.val .down 5
    | .failed, false => s.setLink l.val fun k => { k with st := .down, why := 5 })

/-- LNK_WIN (R340, R343): the length takes effect at each link's next training; while some link carries traffic, every link that does
or trains goes back to training. -/
def execLnkWin (m : Master) (v : BitVec 32) (s : State) : Out :=
  .next (s.ownedServing m fun s =>
    let n := v.toNat % 16
    let s := { s with net.win := if 6 < n then 2 else n }
    let any := (List.range 16).any fun l => (s.link l).live
    (List.range 16).foldl (fun s l =>
      if (s.link l).live || (any && (s.link l).st = .training) then (s.startTraining l).masterCheck l else s) s)

/-- LINK_TRAINING_COMPLETE (R338): the lanes that proved good, and the partner's window length. A gated module tells its partner so
(R23); the end of the last training of bring-up makes the module ready (R25). -/
def execLinkTrainingComplete (l : Fin 16) (good : BitVec 5) (s : State) : Out :=
  .next (let k := s.link l.val
    State.finishBringUp <| match k.st, k.pwin with
    | .training, some w =>
      if w ≠ k.win then s.dropLink l.val .down 2
      else match State.lanesFor k.lanes good with
        | none => s.dropLink l.val .down 1
        | some (lanes, spare) => s.setLink l.val fun k =>
            let k := { k with st := if spare then .degraded else .up, lanes, credits := 64, gated := false, waiting := false }
            if s.md.gated then k.send s.now (.gate true) else k
    | _, _ => s)

/-- LINK_TRAINING_TIMEOUT (R338): training ends without a link, for want of lanes (1), over the window length (2) or after 100 ms
(3, and any other code); a link that is down and enabled tries again, once bring-up is over (R25; notes/assumptions 58). -/
def execLinkTrainingTimeout (l : Fin 16) (why : BitVec 4) (s : State) : Out :=
  .next (let k := s.link l.val
    match k.st with
    | .training => (s.dropLink l.val .down (if why = 1 ∨ why = 2 then why.toNat else 3)).finishBringUp
    | .down => if k.en ∧ s.md.ready then s.startTraining l.val else s
    | _ => s)

/-- LANE_ERROR_THRESHOLD (R338): the spare takes a lane's place in a retrain of at most 10 µs, in which nothing is admitted;
with the spare in use the link fails. -/
def execLaneErrorThreshold (l : Fin 16) (lane : Fin 5) (s : State) : Out :=
  .next (let k := s.link l.val
    let ms := s.now / 2000000
    let e := Config.laneErrors l.val lane.val ms
    let s := s.setLink l.val fun k =>
      { k with laneErr := mset 0 (if k.laneMs = ms then k.laneErr else []) lane.val (if k.errThr < e then e else k.errThr + 1),
               laneMs := ms }
    if !bitOf k.lanes lane.val then s
    else match k.st with
      | .up => s.setLink l.val fun k =>
          { k with st := .degraded, lanes := (k.lanes &&& ~~~(BitVec.ofNat 5 (2 ^ lane.val))) ||| 0x10,
                   swapEnd := s.deviceTime + min 10000 (Config.swapTime s.now) }
      | .degraded => { s with md.spareOut := true }.dropLink l.val .failed 0
      | _ => s)

/-- PARTNER_SILENCE_TIMEOUT (R338): 1 ms without a flit. -/
def execPartnerSilenceTimeout (l : Fin 16) (s : State) : Out :=
  .next (if (s.link l.val).live then s.dropLink l.val .down 4 else s)

/-- LINK_ADMISSION (R256, R340): the next chunk of the n-th command in a core's queue. -/
def execLinkAdmission (core n : Nat) (s : State) : Out :=
  .next (s.atCore core fun s =>
    match s.t.eng.cmds[n]? with
    | some c =>
      if c.running ∧ cmdPath c = 4 ∧ c.units < c.total ∧ s.t.active ∧ s.t.pipe.freeze = 0 ∧ !s.md.gated then s.admitChunk c else s
    | none => s)

/-- WRITE_MESSAGE (R337): a write of cpyl arrives. -/
def execWriteMessage (l : Fin 16) (msg : LinkMsg) (s : State) : Out :=
  .next (if s.md.gated then s else s.receive l.val 1 msg)

/-- REDUCE_MESSAGE (R342): a reduction of cpyx arrives. -/
def execReduceMessage (l : Fin 16) (msg : LinkMsg) (s : State) : Out :=
  .next (if s.md.gated then s else s.receive l.val 2 msg)

/-- SIGNAL_MESSAGE (R337): a word of sig arrives. -/
def execSignalMessage (l : Fin 16) (msg : LinkMsg) (s : State) : Out :=
  .next (if s.md.gated then s else s.receive l.val 3 { msg with data := msg.data.take 4 })

/-- PADDING_MESSAGE (R337): the rest of its flit carries nothing. -/
def execPaddingMessage (l : Fin 16) (s : State) : Out :=
  .next (if (s.link l.val).hears then s.setLink l.val (·.heardPadding) else s)

/-- NEGATIVE_ACKNOWLEDGEMENT (R336): the flits from the first discarded one are sent again. -/
def execNegativeAcknowledgement (l : Fin 16) (seq : BitVec 12) (s : State) : Out :=
  .next (s.arriveOn l.val fun k => k.resend s.now seq)

/-- CHUNK_ACCEPT (R337): the acknowledgement of a chunk. -/
def execChunkAccept (l : Fin 16) (flags : BitVec 6) (refused dup : Bool) (seq : BitVec 32) (s : State) : Out :=
  .next (if (s.link l.val).hears then (s.arriveOn l.val id).accepted l.val (if dup then 0 else flags) refused seq else s)

/-- CREDIT (R337). -/
def execCredit (l : Fin 16) (n : BitVec 16) (s : State) : Out :=
  .next (s.arriveOn l.val fun k => { k with credits := k.credits + n.toNat })

/-- TRAIN (R337): the partner's window length, its clock identity, and its next chunk sequence for a receiver that was reset. The
lanes change nothing that the spec names. -/
def execTrain (l : Fin 16) (win : BitVec 4) (_lanes : BitVec 5) (next : BitVec 32) (clock : Word) (s : State) : Out :=
  .next (if (s.link l.val).st = .training then s.setLink l.val fun k =>
      { k with pwin := some win.toNat, pclock := some clock, last := if k.fresh then next - 1 else k.last, fresh := false,
               rxFlit := k.rxFlit + 1 }
    else s)

/-- GATE (R23, R337): the partner holds admission back, or admits again. -/
def execGate (l : Fin 16) (gated : Bool) (s : State) : Out :=
  .next (s.arriveOn l.val fun k => { k with gated, waiting := gated && k.waiting })

/-- WAKE_REQUEST (R23, R337): a gated module starts to wake. -/
def execWakeRequest (l : Fin 16) (s : State) : Out :=
  .next (let s' := s.arriveOn l.val id
    if s.md.gated ∧ (s.link l.val).hears then { s' with md.waking := true } else s')

/-- TIME_MESSAGE (R339): a Sync of the master corrects device time by the time from its origin timestamp to its arrival, an Announce
may select another master, a Pdelay_Req is answered with its arrival and the answer's departure, a Pdelay_Resp measures the delay. -/
def execTimeMessage (l : Fin 16) (after : Word) (msg : TimeMsg) (s : State) : Out :=
  .next (if !(s.link l.val).hears then s
    else
      let s := s.arriveOn l.val id
      match msg with
      | .announce p q i n => (s.setLink l.val fun k => { k with announce := some (p, q, i, n) }).selectMaster
      | .pdelayReq => s.sendTime l.val 1 [BitVec.ofNat 64 s.deviceTime, s.leaves (s.link l.val)]
      | .pdelayResp turnaround => s.heardDelay l.val turnaround
      | .sync =>
        if s.net.grand ∨ s.net.master ≠ l.val ∨ s.net.timeSt = .free ∨ s.net.timeSt = .holdover then s
        else s.synchronise l.val after)

/-- HOLDOVER_TIMEOUT (R339): 10 ms of holdover. -/
def execHoldoverTimeout (s : State) : Out :=
  .next (if s.net.timeSt = .holdover then { s with net.timeSt := .free }.masterCheck s.net.master else s)

/-- IDLE_FLIT (R335): its cumulative acknowledgement frees what the link keeps for replay. -/
def execIdleFlit (l : Fin 16) (ack : BitVec 12) (s : State) : Out :=
  .next (if (s.link l.val).hears then s.setLink l.val (·.acked ack) else s)

end Sys2Proof.Machine
end

