-- ==== Sys2Proof/Machine/MemoryOps.lean ====
section
/-! DEFINITION. The memory syllables of class MM (09_memory_engines R192 to R201). -/

namespace Sys2Proof.Machine

/-- The effective address (R192, R196). -/
def CoreTask.addr (t : CoreTask) (a : SSrc) (disp : Word) : Nat := (t.src a + disp).toNat

/-! ## Scalar loads and stores (R192) -/

def scalarLoad (i : Instr) (g : Guard) (d : SDst) (a : SSrc) (disp : Word) (n : Nat) (signed : Bool) (s : State) : Out :=
  syllable i (s.t.guardOn g) s fun s =>
    s.load { lvl := s.t.level, dst := CoreTask.dstReg d, row := none, pair := none, lanes := 0, zero := false, size := n,
             signed, addrs := [s.t.addr a disp] } n false

def execLd8 (g : Guard) (d : SDst) (a : SSrc) (disp : Word) (s : State) : Out :=
  scalarLoad (.ld8 g d a disp) g d a disp 1 true s

def execLd8u (g : Guard) (d : SDst) (a : SSrc) (disp : Word) (s : State) : Out :=
  scalarLoad (.ld8u g d a disp) g d a disp 1 false s

def execLd16 (g : Guard) (d : SDst) (a : SSrc) (disp : Word) (s : State) : Out :=
  scalarLoad (.ld16 g d a disp) g d a disp 2 true s

def execLd16u (g : Guard) (d : SDst) (a : SSrc) (disp : Word) (s : State) : Out :=
  scalarLoad (.ld16u g d a disp) g d a disp 2 false s

def execLd32 (g : Guard) (d : SDst) (a : SSrc) (disp : Word) (s : State) : Out :=
  scalarLoad (.ld32 g d a disp) g d a disp 4 true s

def execLd32u (g : Guard) (d : SDst) (a : SSrc) (disp : Word) (s : State) : Out :=
  scalarLoad (.ld32u g d a disp) g d a disp 4 false s

def execLd64 (g : Guard) (d : SDst) (a : SSrc) (disp : Word) (s : State) : Out :=
  scalarLoad (.ld64 g d a disp) g d a disp 8 false s

def scalarStore (i : Instr) (g : Guard) (a : SSrc) (disp : Word) (b : SSrc) (n : Nat) (s : State) : Out :=
  syllable i (s.t.guardOn g) s fun s =>
    s.store n [(s.t.addr a disp, leBytes n (s.t.src b).toNat)]

def execSt8 (g : Guard) (a : SSrc) (disp : Word) (b : SSrc) (s : State) : Out :=
  scalarStore (.st8 g a disp b) g a disp b 1 s

def execSt16 (g : Guard) (a : SSrc) (disp : Word) (b : SSrc) (s : State) : Out :=
  scalarStore (.st16 g a disp b) g a disp b 2 s

def execSt32 (g : Guard) (a : SSrc) (disp : Word) (b : SSrc) (s : State) : Out :=
  scalarStore (.st32 g a disp b) g a disp b 4 s

def execSt64 (g : Guard) (a : SSrc) (disp : Word) (b : SSrc) (s : State) : Out :=
  scalarStore (.st64 g a disp b) g a disp b 8 s

/-! ## Tile loads and stores (R196, R197) -/

/-- The row of the second tile of a pair (R196). -/
def pairSpec : RowSpec → RowSpec
  | .row n r => .row (n + 1) r
  | .idx n k => .idx (n + 1) k
  | r => r

/-- The enabled lanes in ascending order. -/
def lanesOf (m : Word) : List Nat := (List.range 64).filter fun k => bitOf m k

/-- The address of a byte offset from a base, modulo 2^64. -/
def offset (base k : Nat) : Nat := (base + k) % 2 ^ 64

/-- Whether a guard zeroes. -/
def zeroes : TGuard → Bool
  | .zero _ => true
  | _ => false

/-- The frame of a row access: its rows (0x02) and its 32-byte alignment (0x03) when some lane is accessed. -/
def rowAccess (i : Instr) (g : TGuard) (rows : List RowSpec) (a : SSrc) (disp : Word) (f : State → State)
    (s : State) : Out :=
  syllable i (s.t.tguardOn g) s fun s =>
    if !s.t.rowsOk rows then s.onT fun t => t.fail 3 0x02 0
    else if s.t.addr a disp % 32 ≠ 0 ∧ s.t.tlanes g ≠ 0 then
      s.onT fun t => t.fail 3 0x03 (BitVec.ofNat 64 (s.t.addr a disp))
    else f s

/-- A row load: lane k of each row from `addr` of the lane. -/
def rowLoad (i : Instr) (g : TGuard) (d : RowSpec) (d2 : Option RowSpec) (a : SSrc) (disp : Word)
    (at_ : Nat → List Nat) (s : State) : Out :=
  rowAccess i g (d :: d2.toList) a disp (fun s =>
    s.load { lvl := s.t.level, dst := none, row := s.t.rowAt d, pair := d2.bind s.t.rowAt, lanes := s.t.tlanes g,
             zero := zeroes g, size := 4, signed := false,
             addrs := (at_ (s.t.addr a disp)).map fun x => offset x 0 } 4 false) s

def execTld (g : TGuard) (r : RowSpec) (a : SSrc) (disp : Word) (s : State) : Out :=
  rowLoad (.tld g r a disp) g r none a disp (fun x => (lanesOf (s.t.tlanes g)).map fun k => x + 4 * k) s

def execTldw (g : TGuard) (r : RowSpec) (a : SSrc) (disp : Word) (s : State) : Out :=
  rowLoad (.tldw g r a disp) g r (some (pairSpec r)) a disp
    (fun x => (lanesOf (s.t.tlanes g)).map (fun k => x + 4 * k) ++
      (lanesOf (s.t.tlanes g)).map fun k => x + 256 + 4 * k) s

def execTldb (g : TGuard) (r : RowSpec) (a : SSrc) (disp : Word) (s : State) : Out :=
  rowLoad (.tldb g r a disp) g r none a disp (fun x => (lanesOf (s.t.tlanes g)).map fun k => x + 4 * (k % 8)) s

/-- The units of a stored row: one of 32 bytes where all eight lanes of it are enabled, else one per lane (R195,
R250). -/
def rowUnits (m : Word) (base : Nat) (lanes : List Nat) : List (Nat × List Byte) :=
  (List.range 8).flatMap fun q =>
    if (List.range 8).all fun k => bitOf m (8 * q + k) then
      [(offset base (32 * q), (List.range 8).flatMap fun k => leBytes 4 (lanes.getD (8 * q + k) 0))]
    else
      ((List.range 8).filter fun k => bitOf m (8 * q + k)).map fun k =>
        (offset base (4 * (8 * q + k)), leBytes 4 (lanes.getD (8 * q + k) 0))

def execTst (g : TGuard) (r : RowSpec) (a : SSrc) (disp : Word) (s : State) : Out :=
  rowAccess (.tst g r a disp) g [r] a disp (fun s =>
    s.store 4 (rowUnits (s.t.tlanes g) (s.t.addr a disp) (s.t.rowSrc 32 r))) s

def execTstw (g : TGuard) (r : RowSpec) (a : SSrc) (disp : Word) (s : State) : Out :=
  rowAccess (.tstw g r a disp) g [r, pairSpec r] a disp (fun s =>
    s.store 4 (rowUnits (s.t.tlanes g) (s.t.addr a disp) (s.t.rowSrc 32 r) ++
      rowUnits (s.t.tlanes g) (offset (s.t.addr a disp) 256) (s.t.rowSrc 32 (pairSpec r)))) s

/-- tldg (R197): always scoreboarded; lane addresses from the index row. -/
def execTldg (g : TGuard) (d : RowSpec) (a : SSrc) (x : RowSpec) (k : Fin 4) (s : State) : Out :=
  syllable (.tldg g d a x k) (s.t.tguardOn g) s fun s =>
    if !s.t.rowsOk [d, x] then s.onT fun t => t.fail 3 0x02 0
    else
      let idx := s.t.rowSrc 32 x
      s.load { lvl := s.t.level, dst := none, row := s.t.rowAt d, pair := none, lanes := s.t.tlanes g,
               zero := zeroes g, size := 4, signed := false,
               addrs := (lanesOf (s.t.tlanes g)).map fun j =>
                 (s.t.src a + BitVec.ofInt 64 (sx 32 (idx.getD j 0) * 2 ^ k.val)).toNat } 4 true

/-! ## Fences and prefetch (R199 to R201) -/

/-- Waits for a fence's condition when it does not hold yet. -/
def fenceWait (s : State) (w : Wait) : State := if s.waitOver w then s.onT (State.ordered · w) else s.onT (·.await w)

/-- xfence (R199): the engines of B are held back, and the task waits when B names the core or plane path. The core path's accesses are
performed at issue, and what it has seen is ordered then (R260). -/
def execXfence (g : Guard) (a b : BitVec 5) (s : State) : Out :=
  syllable (.xfence g a b) (s.t.guardOn g) s fun s =>
    let ord := s.t.pipe.ord
    let s := s.onT (·.inOrder (a &&& 1) b ord)
    let s := if bitOf b 2 || bitOf b 3 || bitOf b 4 then
        s.onT fun t => { t with eng.fences := t.eng.fences ++ [(a, b, ord)], pipe.ord := ord + 1 }
      else s
    if bitOf b 0 || bitOf b 1 then fenceWait s (.fence a b ord) else s

/-- rel (R200): in a redundant launch the replicas meet first (R368). -/
def execRel (g : Guard) (s : State) : Out :=
  syllable (.rel g) (s.t.guardOn g) s fun s =>
    if 1 < s.t.id.copies then s.onT fun t => (t.await (.meet .rel))
    else fenceWait s (.rel s.t.pipe.ord)

/-- wfence (R200, R257). -/
def execWfence (g : Guard) (s : State) : Out :=
  syllable (.wfence g) (s.t.guardOn g) s fun s => fenceWait s (.wfence s.t.pipe.ord)

/-- pref (R201): fetches the line into the lease cache; anything else is a nop. -/
def execPref (g : Guard) (a : SSrc) (disp : Word) (s : State) : Out :=
  syllable (.pref g a disp) (s.t.guardOn g) s fun s =>
    let va := s.t.addr a disp
    if 2 ^ 24 ≤ va ∧ va < 2 ^ 48 then
      match s.translate s.t.id.core s.t.id.ctx va .r with
      | .ok (pa, s) => (s.loadLine s.t.id.core (s.keyOf s.t.id.ctx) pa 1).2
      | .error _ => s.walked s.t.id.core s.t.id.ctx .r [va]
    else s

end Sys2Proof.Machine
end

