-- ==== Sys2Proof/Machine/Dispatch.lean ====
section
/-! DEFINITION. The dispatch: one arm per constructor, one meaning per arm. -/

namespace Sys2Proof.Machine

def exec (i : Instr) (s : State) : Host.Outcome State Fault Refusal :=
  match i with
  | .nop sl g => Sys2Proof.Machine.execNop sl g s
  | .add sl g d a b => Sys2Proof.Machine.execAdd sl g d a b s
  | .sub sl g d a b => Sys2Proof.Machine.execSub sl g d a b s
  | .addi sl g d a imm => Sys2Proof.Machine.execAddi sl g d a imm s
  | .mul sl g d a b => Sys2Proof.Machine.execMul sl g d a b s
  | .mulh sl g d a b => Sys2Proof.Machine.execMulh sl g d a b s
  | .mulhu sl g d a b => Sys2Proof.Machine.execMulhu sl g d a b s
  | .and sl g d a b => Sys2Proof.Machine.execAnd sl g d a b s
  | .or sl g d a b => Sys2Proof.Machine.execOr sl g d a b s
  | .xor sl g d a b => Sys2Proof.Machine.execXor sl g d a b s
  | .andn sl g d a b => Sys2Proof.Machine.execAndn sl g d a b s
  | .shl sl g d a b => Sys2Proof.Machine.execShl sl g d a b s
  | .shr sl g d a b => Sys2Proof.Machine.execShr sl g d a b s
  | .sar sl g d a b => Sys2Proof.Machine.execSar sl g d a b s
  | .shli sl g d a n => Sys2Proof.Machine.execShli sl g d a n s
  | .shri sl g d a n => Sys2Proof.Machine.execShri sl g d a n s
  | .sari sl g d a n => Sys2Proof.Machine.execSari sl g d a n s
  | .andi sl g d a imm => Sys2Proof.Machine.execAndi sl g d a imm s
  | .ori sl g d a imm => Sys2Proof.Machine.execOri sl g d a imm s
  | .xori sl g d a imm => Sys2Proof.Machine.execXori sl g d a imm s
  | .min sl g d a b => Sys2Proof.Machine.execMin sl g d a b s
  | .max sl g d a b => Sys2Proof.Machine.execMax sl g d a b s
  | .minu sl g d a b => Sys2Proof.Machine.execMinu sl g d a b s
  | .maxu sl g d a b => Sys2Proof.Machine.execMaxu sl g d a b s
  | .li sl g d imm => Sys2Proof.Machine.execLi sl g d imm s
  | .mov sl g d a => Sys2Proof.Machine.execMov sl g d a s
  | .sel sl g d p a b => Sys2Proof.Machine.execSel sl g d p a b s
  | .clz sl g d a => Sys2Proof.Machine.execClz sl g d a s
  | .ctz sl g d a => Sys2Proof.Machine.execCtz sl g d a s
  | .popc sl g d a => Sys2Proof.Machine.execPopc sl g d a s
  | .sext sl g d w a => Sys2Proof.Machine.execSext sl g d w a s
  | .zext sl g d w a => Sys2Proof.Machine.execZext sl g d w a s
  | .addw sl g d a b => Sys2Proof.Machine.execAddw sl g d a b s
  | .subw sl g d a b => Sys2Proof.Machine.execSubw sl g d a b s
  | .mulw sl g d a b => Sys2Proof.Machine.execMulw sl g d a b s
  | .lea sl g d a b k => Sys2Proof.Machine.execLea sl g d a b k s
  | .bfx sl g d a p n => Sys2Proof.Machine.execBfx sl g d a p n s
  | .bfi sl g d a p n => Sys2Proof.Machine.execBfi sl g d a p n s
  | .cmp sl g cc k a b => Sys2Proof.Machine.execCmp sl g cc k a b s
  | .cmpi sl g cc k a imm => Sys2Proof.Machine.execCmpi sl g cc k a imm s
  | .pand sl g k l m => Sys2Proof.Machine.execPand sl g k l m s
  | .por sl g k l m => Sys2Proof.Machine.execPor sl g k l m s
  | .pxor sl g k l m => Sys2Proof.Machine.execPxor sl g k l m s
  | .pnot sl g k l => Sys2Proof.Machine.execPnot sl g k l s
  | .stg sl g r a => Sys2Proof.Machine.execStg sl g r a s
  | .br g disp => Sys2Proof.Machine.execBr g disp s
  | .call g disp => Sys2Proof.Machine.execCall g disp s
  | .ret g => Sys2Proof.Machine.execRet g s
  | .jmp g a => Sys2Proof.Machine.execJmp g a s
  | .loop g a disp => Sys2Proof.Machine.execLoop g a disp s
  | .lexit g => Sys2Proof.Machine.execLexit g s
  | .rcall g idx => Sys2Proof.Machine.execRcall g idx s
  | .rcallAsync g idx ctr => Sys2Proof.Machine.execRcallAsync g idx ctr s
  | .rret g => Sys2Proof.Machine.execRret g s
  | .wait g cc addr value timeout k => Sys2Proof.Machine.execWait g cc addr value timeout k s
  | .waitc g ctr thr => Sys2Proof.Machine.execWaitc g ctr thr s
  | .bar g => Sys2Proof.Machine.execBar g s
  | .yield g => Sys2Proof.Machine.execYield g s
  | .halt g => Sys2Proof.Machine.execHalt g s
  | .trap g code => Sys2Proof.Machine.execTrap g code s
  | .brk g code => Sys2Proof.Machine.execBrk g code s
  | .setfm g k a => Sys2Proof.Machine.execSetfm g k a s
  | .setfcr g fsr a => Sys2Proof.Machine.execSetfcr g fsr a s
  | .rdctl g d r => Sys2Proof.Machine.execRdctl g d r s
  | .wrctl g r a => Sys2Proof.Machine.execWrctl g r a s
  | .tadd g ty rnd d a b => Sys2Proof.Machine.execTadd g ty rnd d a b s
  | .tsub g ty rnd d a b => Sys2Proof.Machine.execTsub g ty rnd d a b s
  | .tmul g ty rnd d a b => Sys2Proof.Machine.execTmul g ty rnd d a b s
  | .tfma g ty rnd d a b => Sys2Proof.Machine.execTfma g ty rnd d a b s
  | .tfms g ty rnd d a b => Sys2Proof.Machine.execTfms g ty rnd d a b s
  | .tmin g ty d a b => Sys2Proof.Machine.execTmin g ty d a b s
  | .tmax g ty d a b => Sys2Proof.Machine.execTmax g ty d a b s
  | .tabs g ty d a => Sys2Proof.Machine.execTabs g ty d a s
  | .tneg g ty d a => Sys2Proof.Machine.execTneg g ty d a s
  | .tcmp g ty cc k a b => Sys2Proof.Machine.execTcmp g ty cc k a b s
  | .tsel g k d a b => Sys2Proof.Machine.execTsel g k d a b s
  | .tcvt g ty src rnd d a => Sys2Proof.Machine.execTcvt g ty src rnd d a s
  | .iadd g ty d a b => Sys2Proof.Machine.execIadd g ty d a b s
  | .isub g ty d a b => Sys2Proof.Machine.execIsub g ty d a b s
  | .imul g ty d a b => Sys2Proof.Machine.execImul g ty d a b s
  | .imac g ty d a b => Sys2Proof.Machine.execImac g ty d a b s
  | .iadds g ty d a b => Sys2Proof.Machine.execIadds g ty d a b s
  | .isubs g ty d a b => Sys2Proof.Machine.execIsubs g ty d a b s
  | .imin g ty d a b => Sys2Proof.Machine.execImin g ty d a b s
  | .imax g ty d a b => Sys2Proof.Machine.execImax g ty d a b s
  | .iand g d a b => Sys2Proof.Machine.execIand g d a b s
  | .ior g d a b => Sys2Proof.Machine.execIor g d a b s
  | .ixor g d a b => Sys2Proof.Machine.execIxor g d a b s
  | .ishl g ty d a b => Sys2Proof.Machine.execIshl g ty d a b s
  | .ishr g ty d a b => Sys2Proof.Machine.execIshr g ty d a b s
  | .isar g ty d a b => Sys2Proof.Machine.execIsar g ty d a b s
  | .icmp g ty cc k a b => Sys2Proof.Machine.execIcmp g ty cc k a b s
  | .tmov g d a => Sys2Proof.Machine.execTmov g d a s
  | .tzero g d => Sys2Proof.Machine.execTzero g d s
  | .tiota g d => Sys2Proof.Machine.execTiota g d s
  | .tperm g d a x => Sys2Proof.Machine.execTperm g d a x s
  | .tsl g d a n => Sys2Proof.Machine.execTsl g d a n s
  | .tred g ty rnd d a => Sys2Proof.Machine.execTred g ty rnd d a s
  | .tmvs g ty d a lane => Sys2Proof.Machine.execTmvs g ty d a lane s
  | .mkand g k l m => Sys2Proof.Machine.execMkand g k l m s
  | .mkor g k l m => Sys2Proof.Machine.execMkor g k l m s
  | .mknot g k l => Sys2Proof.Machine.execMknot g k l s
  | .mkpop g d l => Sys2Proof.Machine.execMkpop g d l s
  | .mkset g k a => Sys2Proof.Machine.execMkset g k a s
  | .ppac g acc r a b ia ib fx fy ra => Sys2Proof.Machine.execPpac g acc r a b ia ib fx fy ra s
  | .accz g acc f n e => Sys2Proof.Machine.execAccz g acc f n e s
  | .accrd g acc r ty rnd d h => Sys2Proof.Machine.execAccrd g acc r ty rnd d h s
  | .accwr g acc r ty a h => Sys2Proof.Machine.execAccwr g acc r ty a h s
  | .accld g acc f n a => Sys2Proof.Machine.execAccld g acc f n a s
  | .accst g acc f n a => Sys2Proof.Machine.execAccst g acc f n a s
  | .accexp g acc e => Sys2Proof.Machine.execAccexp g acc e s
  | .ld8 g d a disp => Sys2Proof.Machine.execLd8 g d a disp s
  | .ld8u g d a disp => Sys2Proof.Machine.execLd8u g d a disp s
  | .ld16 g d a disp => Sys2Proof.Machine.execLd16 g d a disp s
  | .ld16u g d a disp => Sys2Proof.Machine.execLd16u g d a disp s
  | .ld32 g d a disp => Sys2Proof.Machine.execLd32 g d a disp s
  | .ld32u g d a disp => Sys2Proof.Machine.execLd32u g d a disp s
  | .ld64 g d a disp => Sys2Proof.Machine.execLd64 g d a disp s
  | .st8 g a disp b => Sys2Proof.Machine.execSt8 g a disp b s
  | .st16 g a disp b => Sys2Proof.Machine.execSt16 g a disp b s
  | .st32 g a disp b => Sys2Proof.Machine.execSt32 g a disp b s
  | .st64 g a disp b => Sys2Proof.Machine.execSt64 g a disp b s
  | .tld g r a disp => Sys2Proof.Machine.execTld g r a disp s
  | .tst g r a disp => Sys2Proof.Machine.execTst g r a disp s
  | .tldw g r a disp => Sys2Proof.Machine.execTldw g r a disp s
  | .tstw g r a disp => Sys2Proof.Machine.execTstw g r a disp s
  | .tldb g r a disp => Sys2Proof.Machine.execTldb g r a disp s
  | .tldg g d a x k => Sys2Proof.Machine.execTldg g d a x k s
  | .xfence g a b => Sys2Proof.Machine.execXfence g a b s
  | .rel g => Sys2Proof.Machine.execRel g s
  | .wfence g => Sys2Proof.Machine.execWfence g s
  | .pref g a disp => Sys2Proof.Machine.execPref g a disp s
  | .cpy g ctr cw tag ss ds => Sys2Proof.Machine.execCpy g ctr cw tag ss ds s
  | .cpya g ctr cw ret op tag ss => Sys2Proof.Machine.execCpya g ctr cw ret op tag ss s
  | .cpyp g ctr cw tag ds => Sys2Proof.Machine.execCpyp g ctr cw tag ds s
  | .cpyu g ctr cw tag ss => Sys2Proof.Machine.execCpyu g ctr cw tag ss s
  | .cpyl g ctr cw tag ss => Sys2Proof.Machine.execCpyl g ctr cw tag ss s
  | .cpyx g ctr cw op tag ss => Sys2Proof.Machine.execCpyx g ctr cw op tag ss s
  | .sig g ctr cw tag => Sys2Proof.Machine.execSig g ctr cw tag s
  | .ixst g ctr cw tag => Sys2Proof.Machine.execIxst g ctr cw tag s
  | .ixend g ctr cw tag => Sys2Proof.Machine.execIxend g ctr cw tag s
  | .marr g ctr cw m => Sys2Proof.Machine.execMarr g ctr cw m s
  | .resultVisible core => Sys2Proof.Machine.execResultVisible core s
  | .loadReply core n => Sys2Proof.Machine.execLoadReply core n s
  | .translationWalkComplete core va need => Sys2Proof.Machine.execTranslationWalkComplete core va need s
  | .freezeTimeout core => Sys2Proof.Machine.execFreezeTimeout core s
  | .waitSatisfied core => Sys2Proof.Machine.execWaitSatisfied core s
  | .waitTimeout core => Sys2Proof.Machine.execWaitTimeout core s
  | .waitcSatisfied core => Sys2Proof.Machine.execWaitcSatisfied core s
  | .fenceWaitEnd core => Sys2Proof.Machine.execFenceWaitEnd core s
  | .preemptionIntervalExceeded core => Sys2Proof.Machine.execPreemptionIntervalExceeded core s
  | .preemptionStop core => Sys2Proof.Machine.execPreemptionStop core s
  | .saveComplete core => Sys2Proof.Machine.execSaveComplete core s
  | .stopReport core => Sys2Proof.Machine.execStopReport core s
  | .commandComplete core n => Sys2Proof.Machine.execCommandComplete core n s
  | .chunkDelivery core n => Sys2Proof.Machine.execChunkDelivery core n s
  | .nativeCallComplete core => Sys2Proof.Machine.execNativeCallComplete core s
  | .nativeHandover core iters => Sys2Proof.Machine.execNativeHandover core iters s
  | .milestoneArrival core n => Sys2Proof.Machine.execMilestoneArrival core n s
  | .logicalClockTick core => Sys2Proof.Machine.execLogicalClockTick core s
  | .releaseMeetingTimeout core => Sys2Proof.Machine.execReleaseMeetingTimeout core s
  | .resyncComplete core => Sys2Proof.Machine.execResyncComplete core s
  | .orderedCommit core => Sys2Proof.Machine.execOrderedCommit core s
  | .orderedEarlyPublication core => Sys2Proof.Machine.execOrderedEarlyPublication core s
  | .seal q slot => Sys2Proof.Machine.execSeal q slot s
  | .launchRecord q => Sys2Proof.Machine.execLaunchRecord q s
  | .signalRecord q => Sys2Proof.Machine.execSignalRecord q s
  | .waitRecord q => Sys2Proof.Machine.execWaitRecord q s
  | .captureStart q => Sys2Proof.Machine.execCaptureStart q s
  | .captureStop q => Sys2Proof.Machine.execCaptureStop q s
  | .fenceRecord q => Sys2Proof.Machine.execFenceRecord q s
  | .nopRecord q => Sys2Proof.Machine.execNopRecord q s
  | .parkedWaitPoll q => Sys2Proof.Machine.execParkedWaitPoll q s
  | .roundaboutFrame => Sys2Proof.Machine.execRoundaboutFrame s
  | .releaseStrobe l => Sys2Proof.Machine.execReleaseStrobe l s
  | .launchCompletion l => Sys2Proof.Machine.execLaunchCompletion l s
  | .queueStallTimeout q => Sys2Proof.Machine.execQueueStallTimeout q s
  | .moduleGating => Sys2Proof.Machine.execModuleGating s
  | .wakeSequenceComplete => Sys2Proof.Machine.execWakeSequenceComplete s
  | .clusterPowerChange cl p => Sys2Proof.Machine.execClusterPowerChange cl p s
  | .powerOn => Sys2Proof.Machine.execPowerOn s
  | .modReset m v => Sys2Proof.Machine.execModReset m v s
  | .cxlConventionalReset => Sys2Proof.Machine.execCxlConventionalReset s
  | .functionLevelReset f => Sys2Proof.Machine.execFunctionLevelReset f s
  | .securityAlarm c => Sys2Proof.Machine.execSecurityAlarm c s
  | .ownClaim m v => Sys2Proof.Machine.execOwnClaim m v s
  | .ownHandover m v => Sys2Proof.Machine.execOwnHandover m v s
  | .handoverTimeout => Sys2Proof.Machine.execHandoverTimeout s
  | .ownRelease m v => Sys2Proof.Machine.execOwnRelease m v s
  | .ownerPathLoss => Sys2Proof.Machine.execOwnerPathLoss s
  | .maintenanceWindow m v => Sys2Proof.Machine.execMaintenanceWindow m v s
  | .correctedEccEvent u n => Sys2Proof.Machine.execCorrectedEccEvent u n s
  | .clusterFailure cl => Sys2Proof.Machine.execClusterFailure cl s
  | .readBlock m v => Sys2Proof.Machine.execReadBlock m v s
  | .writeBlock m v => Sys2Proof.Machine.execWriteBlock m v s
  | .readFlashLog m v => Sys2Proof.Machine.execReadFlashLog m v s
  | .writeImageChunk m v => Sys2Proof.Machine.execWriteImageChunk m v s
  | .commitImageSlot m v => Sys2Proof.Machine.execCommitImageSlot m v s
  | .configure m x => Sys2Proof.Machine.execConfigure m x s
  | .destroy m x => Sys2Proof.Machine.execDestroy m x s
  | .resume m x => Sys2Proof.Machine.execResume m x s
  | .kill m x => Sys2Proof.Machine.execKill m x s
  | .resize m x => Sys2Proof.Machine.execResize m x s
  | .reset m x => Sys2Proof.Machine.execReset m x s
  | .contextScrubComplete x => Sys2Proof.Machine.execContextScrubComplete x s
  | .skip m q => Sys2Proof.Machine.execSkip m q s
  | .flush m q => Sys2Proof.Machine.execFlush m q s
  | .qPrio m q v => Sys2Proof.Machine.execQPrio m q v s
  | .invalidatePage m x => Sys2Proof.Machine.execInvalidatePage m x s
  | .invalidateContext m x => Sys2Proof.Machine.execInvalidateContext m x s
  | .invalidationComplete x => Sys2Proof.Machine.execInvalidationComplete x s
  | .dbgUnlock m v => Sys2Proof.Machine.execDbgUnlock m v s
  | .dbgTgt m v => Sys2Proof.Machine.execDbgTgt m v s
  | .debugStopRequest m v => Sys2Proof.Machine.execDebugStopRequest m v s
  | .debugStop core => Sys2Proof.Machine.execDebugStop core s
  | .addressBreakpoint core => Sys2Proof.Machine.execAddressBreakpoint core s
  | .faultInjection ch => Sys2Proof.Machine.execFaultInjection ch s
  | .lnkCtl m l v => Sys2Proof.Machine.execLnkCtl m l v s
  | .lnkWin m v => Sys2Proof.Machine.execLnkWin m v s
  | .linkTrainingComplete l good => Sys2Proof.Machine.execLinkTrainingComplete l good s
  | .linkTrainingTimeout l why => Sys2Proof.Machine.execLinkTrainingTimeout l why s
  | .laneErrorThreshold l lane => Sys2Proof.Machine.execLaneErrorThreshold l lane s
  | .partnerSilenceTimeout l => Sys2Proof.Machine.execPartnerSilenceTimeout l s
  | .linkAdmission core n => Sys2Proof.Machine.execLinkAdmission core n s
  | .writeMessage l msg => Sys2Proof.Machine.execWriteMessage l msg s
  | .reduceMessage l msg => Sys2Proof.Machine.execReduceMessage l msg s
  | .signalMessage l msg => Sys2Proof.Machine.execSignalMessage l msg s
  | .paddingMessage l => Sys2Proof.Machine.execPaddingMessage l s
  | .negativeAcknowledgement l seq => Sys2Proof.Machine.execNegativeAcknowledgement l seq s
  | .chunkAccept l flags refused dup seq => Sys2Proof.Machine.execChunkAccept l flags refused dup seq s
  | .credit l n => Sys2Proof.Machine.execCredit l n s
  | .train l win lanes next clock => Sys2Proof.Machine.execTrain l win lanes next clock s
  | .gate l gated => Sys2Proof.Machine.execGate l gated s
  | .wakeRequest l => Sys2Proof.Machine.execWakeRequest l s
  | .timeMessage l offset msg => Sys2Proof.Machine.execTimeMessage l offset msg s
  | .holdoverTimeout => Sys2Proof.Machine.execHoldoverTimeout s
  | .registerWrite m addr v => Sys2Proof.Machine.execRegisterWrite m addr v s
  | .hostMemoryAccess addr data => Sys2Proof.Machine.execHostMemoryAccess addr data s
  | .unknownOpcodeRecord q => Sys2Proof.Machine.execUnknownOpcodeRecord q s
  | .roundLoaded l => Sys2Proof.Machine.execRoundLoaded l s
  | .mailboxCommandComplete => Sys2Proof.Machine.execMailboxCommandComplete s
  | .mbCmdBadCommand m v => Sys2Proof.Machine.execMbCmdBadCommand m v s
  | .idleFlit l ack => Sys2Proof.Machine.execIdleFlit l ack s
  | .qStallclr m q v => Sys2Proof.Machine.execQStallclr m q v s

end Sys2Proof.Machine
end

