-- ==== Sys2Proof/Machine/Cycle.lean ====
section
/-! DEFINITION. One compute cycle of the current core: freezes, results becoming visible, waits, stops, and the issue of one
group (03 R66 to R73, 05 R129, 06 R137 to R151, 12 R252, 18 R309, 22 R345 to R354). -/

namespace Sys2Proof.Machine

namespace CoreTask

/-- Whether the wait of a pre-emption point holds the task (R309). -/
def atWait (t : CoreTask) : Bool :=
  t.pipe.waits.any fun w => match w with | .word .. | .ctr .. | .bar | .barLeft _ => true | _ => false

/-- The group in issue, before its syllables: a control syllable done before keeps its choice (R345). The hold cycle of a transfer
so kept is not spent (R137; DESIGN CHOICE; notes/assumptions 46). -/
def openGroup (t : CoreTask) (ws : List Word) (g : List Syl) : CoreTask :=
  let kept := (if bitOf t.pipe.suppress 5 then t.pipe.kept else none).getD Group.idle
  { t with pipe.grp :=
      { start := t.r.pc, next := t.r.pc + ws.length, present := g.foldl (fun m y => m ||| BitVec.ofNat 8 (2 ^ y.cls)) 0,
        lx := (g.find? (·.ext)).map (·.cls), failed := 0, trap := none, soft := kept.soft, xfer := kept.xfer,
        back := none, halting := kept.halting, issued := false, cycle := t.pipe.cycle } }

/-- Whether the group in issue is a pre-emption point: it holds a wait, waitc, bar or yield, or takes a back-edge (R149). -/
def pointGroup (t : CoreTask) : Bool :=
  t.pipe.ppoint || (t.pipe.grp.trap.isNone && t.pipe.grp.soft.isNone && !t.pipe.grp.halting && t.pipe.grp.xfer.isNone &&
    (stepLoops t.pipe.grp.start t.r.b.loops).2.isSome)

/-- The group has issued (R151, R347). -/
def counted (t : CoreTask) : CoreTask :=
  { t with r.lcycle := if t.pipe.recount then t.r.lcycle else t.r.lcycle + 1, pipe.grp.issued := true, pipe.recount := false,
           pipe.suppress := 0, pipe.kept := none, pipe.bpSkip := false, pipe.lastAt := t.pipe.seen, pipe.lastPc := t.pipe.grp.start,
           pipe.interv := if t.pointGroup then 0 else t.pipe.interv + 1 }

/-- A group that was held back tries again (R203, R225, R307), once what the task publishes early is out (R378). -/
def retry (t : CoreTask) : CoreTask :=
  if t.ctl.st = .waiting ∧ t.pipe.waits.isEmpty ∧ t.held.publishing.isNone then { t with ctl.st := .running } else t

/-- One waiting core cycle toward the interval (R309). -/
def waited (t : CoreTask) : CoreTask := { t with pipe.interv := if t.atWait then 0 else t.pipe.interv + 1 }

end CoreTask

namespace State

/-- The state after a syllable's meaning. -/
def issueOne (s : State) (i : Instr) : State :=
  match exec i s with
  | .next s' => s'
  | _ => s

/-- Whether a syllable is a fence (R199, R200). -/
def fenceSyl (y : Syl) : Bool := match y.instr with | .xfence .. | .rel .. | .wfence .. => true | _ => false

/-- The syllables of a group but its control syllable, in an order that does not depend on where their words stand: a fence
before the accesses of its own group, which it does not await, the plane syllable before a store whose tag it does not see, and
the engine syllable after the load that does not see its completion word (R66, R199, R200). -/
def issueOrder (g : List Syl) : List Syl :=
  let go := g.filter fun y => y.cls != 5
  go.filter fenceSyl ++ (go.filter fun y => y.cls = 7) ++ (go.filter fun y => !fenceSyl y && y.cls != 7 && y.cls != 4) ++
    go.filter fun y => y.cls = 4

/-- Issues the syllables of the open group: the control syllable last, and not at all when the group is held back. When another traps
it has no effect, but a trap of its own is reported before that of a higher class (R345). -/
def issueAll (s : State) (g : List Syl) : State :=
  let go := g.filter fun y => !bitOf s.t.pipe.suppress y.cls
  let s := (issueOrder go).foldl (fun s y => s.issueOne y.instr) s
  match go.find? fun y => y.cls = 5 with
  | none => s
  | some y =>
    if s.t.pipe.grp.back.isSome then s
    else if s.t.pipe.grp.trap.isSome then
      let tr := (s.issueOne y.instr).t.pipe.grp.trap
      s.onT fun t => { t with pipe.grp.failed := t.pipe.grp.failed ||| 0x20, pipe.grp.trap := tr }
    else s.issueOne y.instr

/-- The classes whose syllables issue, with the LX after the one it extends (R354). -/
def issuedClasses (s : State) (g : List Syl) : List Nat :=
  (g.filter fun y => !bitOf s.t.pipe.suppress y.cls).flatMap fun y => if y.ext then [y.cls, 6] else [y.cls]

/-- A core cycle in which no group issues. -/
def waitingCycle (s : State) : State := (s.onT (·.waited)).count s.t.id.ctx 2 1

/-- A group that is held back: nothing of it issues, and a full held set leads to an implicit release or a stall (R203, R225,
R307, R322, R364, R378). `s` is the state before its syllables. -/
def holdBack (s : State) (b : Back) : State :=
  let s := (s.onT fun t =>
    { t.closeCycle with pipe.grp := { Group.idle with back := some b }, ctl.st := .waiting }).waitingCycle
  if b = .heldSet then s.heldStall else s

/-- The end of the issue cycle: the first trap, the waits, or the choice of the next group (R141, R345). -/
def closeGroup (s : State) : State :=
  match s.t.pipe.grp.trap with
  | some tr => s.onT fun t => t.takeTrap tr t.pipe.grp.start (t.doneMask t.waitMask) false
  | none => if s.t.pipe.waits.isEmpty then s.endGroup else s.meetTick.tickWaits

/-- Issues the group at the program counter; a decode fault issues nothing (R66, R129), nor does a plane read of an uncorrectable sector,
whose stop falls before the group (R195, R345). -/
def issueGroup (s : State) : State :=
  match s.t.fetchGroup with
  | .error f =>
    s.onT fun t =>
      (({ t with pipe.grp.issued := false, pipe.grp.cycle := t.pipe.cycle }).closeCycle).takeTrap
        { cause := 0x01, sub := f.err.sub, cls := f.cls, val := 0, reason := 0 } t.r.pc 0 false
  | .ok (ws, g) =>
    let s1 := (s.onT (·.openGroup ws g)).issueAll g
    match s1.t.pipe.grp.back with
    | some (.memory a) =>
      (s.onT (·.closeCycle)).stopTask { cause := 0x0E, sub := 0, cls := 0, val := BitVec.ofNat 64 a, reason := 0 } true
    | some b => s.holdBack b
    | none =>
      let classes := s.issuedClasses g
      let again := s.t.pipe.recount
      let s2 := (s1.onT (·.counted)).traceGroup s.t.pipe s.t.r.pc classes
      let s3 := if again then s2 else s2.count s.t.id.ctx 1 1
      let s4 := if g.any fun y => match y.instr with | .ppac .. => !bitOf s.t.pipe.suppress y.cls | _ => false
        then s3.count s.t.id.ctx 4 1 else s3
      (s4.onT (·.closeCycle)).closeGroup

/-- Keeps the task as it stands at a pre-emption point, at its release and at a resume (R274). -/
def notePoint (s : State) : State :=
  let t := s.t
  if t.id.launch != 0 && t.going && (if t.pipe.waits.isEmpty then (t.pipe.ppoint || t.pipe.interv = 0) && t.pipe.hold = 0 else t.atWait)
  then { s with exe.points := t :: s.exe.points.filter fun o => o.id ≠ t.id }
  else s

/-- What reached the scratchpads in a compute cycle, at its end: the tasks whose stores meet at one scratchpad come level with its own, so
that R249 spans their other accesses; then the stores are applied, and the milestones evaluated (R251, R321). -/
def settleClocks (s : State) : State :=
  s.tasks.foldl (fun s p =>
    if p.lm.inbox.isEmpty then s
    else
      let meets (t : CoreTask) : Bool :=
        t.id.core = p.id.core || (mates p t && p.lm.inbox.any fun x => x.1 = t.id.cidx % 4)
      let c := (s.tasks.filter meets).foldl (fun c t => max c t.lm.clock) 0
      s.onTasks meets fun t => { t with lm.clock := max t.lm.clock c }) s

def settleCycle (s : State) : State := (s.settleClocks.onTasks (fun _ => true) (·.settleScratch)).evalMiles

/-- A compute cycle passes for the current core; module time moves once every core that takes part has had its turn, with
the resident cycles of each context and the logical clocks (R252, R287). -/
def passTime (s : State) : State :=
  let s := if s.now ≤ s.t.pipe.seen then
      let s := s.settleCycle
      let s := if (s.now + 1) % 1024 = 0 then s.onTasks (fun _ => true) (·.tickClock) else s
      let s : State := s.exe.ctxs.foldl (fun s e => s.count e.1 20 1) { s with now := s.now + 1 }
      if s.now % 2000000 = 0 then s.timeDuties else s
    else s
  s.onT fun t => { t with pipe.seen := s.now }

/-- A frozen compute cycle (R73). -/
def frozenCycle (s : State) : State :=
  let s := s.count s.t.id.ctx 3 1
  s.onT fun t => if t.resultLate then t.freezeOnResult else { t with pipe.freeze := t.pipe.freeze + 1 }

/-- A core cycle of the current task, its results visible: the injections, the stops that are due, a pending pre-emption,
then a waiting cycle or an issue (R346, R353). The hold of a transfer (R137) in the group of a waiting fence follows the wait
(DESIGN CHOICE; notes/assumptions 46). -/
def coreCycle (s : State) : State :=
  let s := s.count s.t.id.ctx 0 1
  let s := if s.t.issuing then s.injectAll else s
  if s.dueStop.isSome then (s.onT (·.closeCycle)).takeStop true
  else if s.atPoint then (s.onT (·.closeCycle)).yieldTask true
  else if s.t.ctl.st = .halted then s.onT (·.closeCycle)
  else if !s.t.pipe.waits.isEmpty then ((s.onT fun t => t.closeCycle.enterLate).waitingCycle.meetTick).tickWaits
  else if s.t.held.publishing.isSome then (s.onT (·.closeCycle)).waitingCycle
  else if s.t.pipe.hold ≠ 0 then
    (s.onT fun t => { t with pipe.hold := t.pipe.hold - 1 }.closeCycle).waitingCycle
  else (s.onT fun t => { t with pipe.ppoint := false }).issueGroup

/-- A core whose minority is brought level stands still: the lead once its replies have landed, frozen, the minority at once; until
then the lead, and the other replica, wait (R372). -/
def levelling (s : State) (lead : Nat) (minor : Bool) : State :=
  if (if s.t.id.core = lead then !s.t.pipe.loads.isEmpty else !minor) then
    ((s.onT fun t => t.land.closeCycle).count s.t.id.ctx 0 1).waitingCycle
  else s.count s.t.id.ctx 3 1

/-- The end of a compute cycle, once every core has had its turn: what reached the scratchpads in it, and the milestones whose
bytes arrived in it (R251, R321). -/
def endCycle (s : State) : State :=
  if s.between then s.settleCycle else s

/-- A compute cycle of a task that has stopped and is still to be saved: what was held back in a freeze reaches it, and it waits for the
handover of its native call in waiting cycles that count toward its interval (R73, R232). -/
def stoppedCycle (s : State) : State :=
  if s.t.ctl.st = .stopping ∨ s.t.ctl.st = .faulted then
    let s := if s.t.held.sync.isNone then s.thaw else s
    if s.t.eng.natives.isEmpty || s.t.handedOver then s
    else (s.onT fun t => { t with pipe.interv := t.pipe.interv + 1 }).count s.t.id.ctx 2 1
  else s

/-- What the current core does in a compute cycle. What was held back in a freeze reaches the core after the results of the cycle it
thaws in (R73, R79). -/
def turn (s : State) : State :=
  if !s.t.active then s.stoppedCycle
  else
    let s := (s.endWaits.onT (·.retry)).notePoint
    match s.t.held.sync with
    | some (lead, minor) => s.levelling lead minor
    | none =>
      if s.t.resultLate || (s.t.issuing && s.t.land.awaitsLoad) then
        (if s.dueStop.isSome then s.takeStop false else if s.atPoint then s.yieldTask false else s.frozenCycle)
      else ((s.onT (·.land)).thaw.onT (·.startCmds)).coreCycle

/-- One compute cycle of the current core. -/
def cycle (s : State) : State := s.passTime.turn.endCycle

end State

end Sys2Proof.Machine
end

