-- ==== Sys2Proof/Machine/Turn.lean ====
section
/-! DEFINITION. Which agent moves next when the agenda is empty, and placing an instruction where the current core fetches.
The order of agents within a compute cycle is the model's own (notes/assumptions 6). -/

namespace Sys2Proof.Machine

namespace State

/-- The arrivals of a core's marrs at their milestones (R321). -/
def arrivals (t : CoreTask) : List Instr :=
  (t.eng.cmds.zipIdx.filter fun c => c.1.op = .marr && c.1.units = 0).map fun c => Instr.milestoneArrival t.id.core c.2

/-- What the engines, the native unit and the executive do for a core between two compute cycles. The copy engine delivers one
chunk a cycle, of its first running command (R203); a native call ends in a cycle that 64 divides, and hands over at once when its task has
stopped. -/
def coreEvents (t : CoreTask) : List Instr :=
  let k := t.id.core
  let loads := (List.range t.pipe.loads.length).reverse.map (Instr.loadReply k)
  let first := t.eng.cmds.findIdx? fun c => c.running && cmdPath c = 2 && !State.unitsDone c
  let cmds := t.eng.cmds.zipIdx.reverse.flatMap fun c =>
    if c.1.op = .marr then []
    else if State.unitsDone c.1 then [.commandComplete k c.2]
    else if cmdPath c.1 = 4 then [.linkAdmission k c.2]
    else if cmdPath c.1 = 2 ∧ first ≠ some c.2 then []
    else [.chunkDelivery k c.2]
  let natives := if t.eng.natives.isEmpty then []
    else if !t.active then [Instr.nativeHandover k (Config.unitProgress (t.pipe.seen * 1024 + k))]
    else if t.pipe.seen % 64 = 0 then [.nativeCallComplete k]
    else []
  let stops := match t.ctl.st with
    | .faulted => if t.ctl.stopVal.isSome then [Instr.stopReport k] else [.saveComplete k]
    | .stopping => [.saveComplete k]
    | .halted => if t.id.ordered then [.orderedCommit k] else []
    | _ => []
  let held := (if (t.pipe.grp.back = some .heldSet ∨ t.held.publishing.isSome) ∧ t.id.ordered then [Instr.orderedEarlyPublication k] else []) ++
    (if t.held.sync.isSome then [Instr.resyncComplete k] else []) ++
    (if t.held.meet.isSome then [Instr.releaseMeetingTimeout k] else [])
  loads ++ cmds ++ natives ++ stops ++ held

/-- The record event that parses a queue's head record, by its opcode (R281). -/
def recordEvent (s : State) (q : Fin 64) : Instr :=
  match byteField (s.headRecord q.val) 0 1 with
  | 1 => .launchRecord q
  | 2 => .signalRecord q
  | 3 => .waitRecord q
  | 4 => .captureStart q
  | 5 => .captureStop q
  | 6 => .fenceRecord q
  | 7 => .nopRecord q
  | _ => .unknownOpcodeRecord q

/-- What the executive does at a frame boundary: the frame, one record or poll of each queue, and what completes (R284 to
R286). -/
def frameEvents (s : State) : List Instr :=
  let queues := (List.finRange 64).flatMap fun q =>
    match (s.queue q.val).st with
    | .parked => [Instr.parkedWaitPoll q, .queueStallTimeout q]
    | .armed | .draining => if (s.canParse q.val).isSome then [s.recordEvent q] else []
    | .waiting | .placing => [.queueStallTimeout q]
    | _ => []
  let ctxs := (List.finRange 64).flatMap fun x =>
    (if (s.ctx x.val).st = .resetting ∨ (s.ctx x.val).st = .destroyed then [Instr.contextScrubComplete x] else []) ++
      (if (s.ctx x.val).invBusy then [Instr.invalidationComplete x] else [])
  [.roundaboutFrame] ++ queues ++ ctxs ++ (s.exe.launches.map fun l => Instr.launchCompletion l.id) ++
    (if s.md.own.mbBusy then [Instr.mailboxCommandComplete] else []) ++
    (if s.md.gated && s.md.waking then [Instr.wakeSequenceComplete] else [])

/-- What each launch does when its round is loaded and at its strobe time (R306). -/
def launchEvents (s : State) : List Instr :=
  s.exe.launches.flatMap fun l =>
    (if l.groups.any fun g => g.st = .placing then [Instr.roundLoaded l.id] else []) ++
      (match l.strobe with
        | some ts => if ts ≤ s.nextTime then [Instr.releaseStrobe l.id] else []
        | none => [])

/-- The core that moves next: one that has not had its turn in this compute cycle. -/
def nextCore (s : State) : CoreTask := (s.tasks.find? fun t => t.pipe.seen < s.now).getD s.t

/-- What happens between two compute cycles around the cores: deliveries and replies by core, then the arrivals at milestones
by ascending core (R321). -/
def moduleEvents (s : State) : List Instr :=
  let ts := (List.range 768).flatMap fun k => s.tasks.filter fun t => t.id.core = k
  ts.flatMap coreEvents ++ ts.flatMap arrivals

/-- The turns that follow an empty agenda: power-on before anything else; then, between two compute cycles, all that is due; and
the cycle of the next core. -/
def refill (s : State) : List Turn :=
  if !s.md.booted then [.event .powerOn]
  else
    let t := s.nextCore
    let fresh := s.now ≤ t.pipe.seen
    let frame := if fresh && s.now % 2 = 0 && s.deviceTime % 1024 = 0 then s.frameEvents else []
    let launches := if fresh then s.launchEvents else []
    let cores := if fresh then s.moduleEvents else []
    (frame ++ launches ++ cores).map Turn.event ++ [.core t.id.core]

/-- What the outside world does (notes/assumptions 44). A flit that fails its check, or has an
unknown type, is discarded with every later one until the partner sends them again, which it is asked for, from that flit: the flits
before it that carry the beginning of its message were good (R20, R335, R336). Every flit, of any type, brings a cumulative
acknowledgement (R335). -/
def suffer (s : State) : Outside → State
  | .badFlit l n =>
    if l < 16 ∧ n ≤ 2 ∧ (s.link l).hears then
      s.setLink l fun k => { k.send s.now (.nak (k.rxFlit + BitVec.ofNat 12 n)) with discard := true } else s
  | .flitAck l ack => if l < 16 ∧ (s.link l).hears then s.setLink l (·.acked ack) else s
  | .replayed l => if l < 16 then s.setLink l fun k => { k with discard := false } else s
  | .sameFlit l => if l < 16 ∧ (s.link l).hears then s.setLink l fun k => { k with joined := true } else s
  | .remoteContext l x on =>
    if l < 16 then s.setLink l fun k => { k with absent := (k.absent.filter (· ≠ x)) ++ if on then [] else [x] } else s
  | .flashFailure => { s with md.flash.failing := true }
  | .mainDamage n => if s.mem.bad.contains n then s else { s with mem.bad := s.mem.bad ++ [n] }
  | .scratchDamage core n =>
    s.onTasks (fun t => t.id.core = core) fun t => if t.lm.bad.contains n then t else { t with lm.bad := t.lm.bad ++ [n] }
  | .sliceDamage n => if s.mem.sliceBad.contains n then s else { s with mem.sliceBad := s.mem.sliceBad ++ [n] }
  | .imageRewritten => { s with exe.rewritten := true }
  | .tracePort b => { s with dbg.trBehind := b }

/-- Runs one turn. -/
def run (s : State) : Turn → Out
  | .core k => .next (s.switchTo k).cycle
  | .event i => exec i s
  | .outside o => .next (s.suffer o)

/-! ## Placing an instruction (Decode.lean numbers the bits) -/

/-- The words of one instruction as a group: the first word, the second when it is not zero, the stop bit on the last. -/
def fetchWords (w : Nat) : List Word :=
  let lo := BitVec.ofNat 64 w
  let hi := BitVec.ofNat 64 (w / 2 ^ 64)
  if hi = 0 then [withStop lo] else [lo, withStop hi]

/-- Writes words into instruction memory from an index up. -/
def placeWords (m : FMap Word) (k : Nat) : List Word → FMap Word
  | [] => m
  | w :: ws => placeWords (mset 0 m k w) (k + 1) ws

/-- The current task about to issue the words at its program counter: nothing holds it, nothing is due, no syllable of the
group is suppressed. -/
def ready (t : CoreTask) (ws : List Word) : CoreTask :=
  { t with
    code.imem := placeWords t.code.imem t.r.pc ws, code.textLen := max t.code.textLen (t.r.pc + ws.length),
    code.codeLen := max t.code.codeLen (t.r.pc + ws.length),
    pipe.pend := [], pipe.loads := [], pipe.interv := 0, pipe.freeze := 0, pipe.hold := 0, pipe.waits := [],
    pipe.suppress := 0, pipe.ppoint := false, pipe.bpSkip := true, pipe.kept := none, pipe.grp := Group.idle,
    ctl := { st := .running, stopReq := false, dbgReq := false, due := [], stopVal := none }, held.sync := none }

end State

end Sys2Proof.Machine
end

