-- ==== Sys2Proof/Machine/Step.lean ====
section
/-! DEFINITION. One step of the module: the next turn of the agenda, or of what follows when it is empty. -/

namespace Sys2Proof.Machine

/-- One step: one compute cycle of one core, or one event. -/
def step (s : State) : Host.Outcome State Fault Refusal :=
  match s.agenda with
  | a :: rest => State.run { s with agenda := rest } a
  | [] =>
    match s.refill with
    | a :: rest => State.run { s with agenda := rest } a
    | [] => .next s

/-- The state whose next step fetches and runs the instruction with these bits on the current core. -/
def State.withFetchWord (s : State) (nbits w : Nat) : State :=
  { s with agenda := [.core s.t.id.core], t := State.ready s.t (State.fetchWords (w % 2 ^ nbits)) }

end Sys2Proof.Machine
end

