-- ==== Sys2Proof/Safety.lean ====
section
/-! DEFINITION. What a safe run is, and the terms in which claims about this machine are stated. -/

namespace Sys2Proof.Safety

open Sys2Proof.Machine

/-! ## Safe runs -/

/-- A step that answers a next state. The model stops in one case only: a host access beyond the 64-bit address space. -/
def StepRuns (s : State) : Prop := ∃ t, step s = .next t

/-- A run of n steps that never stops. -/
def RunsFor (n : Nat) (s : State) : Prop := ∃ t, Sys2Proof.core.run n s = .next t

/-! ## Canonical memory -/

/-- Every memory of the machine in its canonical form: main memory, the host's device memory, the slices, and the scratchpad
of every task, running, saved or kept at a pre-emption point. -/
def MemoryCanonical (s : State) : Prop :=
  s.mem.phys.wf = true ∧ s.mem.hdm.wf = true ∧ s.mem.slices.wf = true ∧
    ∀ t ∈ s.tasks ++ s.exe.saved ++ s.exe.points, t.lm.scratch.wf = true

/-! ## Syllables that act -/

/-- A syllable with a scalar guard acts: its guard holds and it touches no outstanding call's footprint (R109, R226). -/
def Acts (s : State) (i : Instr) (g : Guard) : Prop := s.t.guardOn g = true ∧ s.t.outstanding i = none

/-- The same of a tile guard (R157). -/
def TActs (s : State) (i : Instr) (g : TGuard) : Prop := s.t.tguardOn g = true ∧ s.t.outstanding i = none

/-- Whether an instruction is a syllable of the core, not an event of the module (R105). -/
def isSyllable : Instr → Bool
  | .nop .. | .add .. | .sub .. | .addi .. | .mul .. | .mulh .. | .mulhu .. | .and .. | .or .. | .xor .. | .andn ..
  | .shl .. | .shr .. | .sar .. | .shli .. | .shri .. | .sari .. | .andi .. | .ori .. | .xori .. | .min .. | .max ..
  | .minu .. | .maxu .. | .li .. | .mov .. | .sel .. | .clz .. | .ctz .. | .popc .. | .sext .. | .zext .. | .addw ..
  | .subw .. | .mulw .. | .lea .. | .bfx .. | .bfi .. | .cmp .. | .cmpi .. | .pand .. | .por .. | .pxor .. | .pnot ..
  | .stg .. | .br .. | .call .. | .ret .. | .jmp .. | .loop .. | .lexit .. | .rcall .. | .rcallAsync .. | .rret ..
  | .wait .. | .waitc .. | .bar .. | .yield .. | .halt .. | .trap .. | .brk .. | .setfm .. | .setfcr .. | .rdctl ..
  | .wrctl .. | .tadd .. | .tsub .. | .tmul .. | .tfma .. | .tfms .. | .tmin .. | .tmax .. | .tabs .. | .tneg ..
  | .tcmp .. | .tsel .. | .tcvt .. | .iadd .. | .isub .. | .imul .. | .imac .. | .iadds .. | .isubs .. | .imin ..
  | .imax .. | .iand .. | .ior .. | .ixor .. | .ishl .. | .ishr .. | .isar .. | .icmp .. | .tmov .. | .tzero ..
  | .tiota .. | .tperm .. | .tsl .. | .tred .. | .tmvs .. | .mkand .. | .mkor .. | .mknot .. | .mkpop .. | .mkset ..
  | .ppac .. | .accz .. | .accrd .. | .accwr .. | .accld .. | .accst .. | .accexp .. | .ld8 .. | .ld8u .. | .ld16 ..
  | .ld16u .. | .ld32 .. | .ld32u .. | .ld64 .. | .st8 .. | .st16 .. | .st32 .. | .st64 .. | .tld .. | .tst ..
  | .tldw .. | .tstw .. | .tldb .. | .tldg .. | .xfence .. | .rel .. | .wfence .. | .pref .. | .cpy .. | .cpya ..
  | .cpyp .. | .cpyu .. | .cpyl .. | .cpyx .. | .sig .. | .ixst .. | .ixend .. | .marr .. => true
  | _ => false

/-- The guard of a syllable as one test. -/
def guardOff (t : CoreTask) : Instr → Bool
  | .nop _ g | .add _ g .. | .sub _ g .. | .addi _ g .. | .mul _ g .. | .mulh _ g .. | .mulhu _ g .. | .and _ g ..
  | .or _ g .. | .xor _ g .. | .andn _ g .. | .shl _ g .. | .shr _ g .. | .sar _ g .. | .shli _ g .. | .shri _ g ..
  | .sari _ g .. | .andi _ g .. | .ori _ g .. | .xori _ g .. | .min _ g .. | .max _ g .. | .minu _ g .. | .maxu _ g ..
  | .li _ g .. | .mov _ g .. | .sel _ g .. | .clz _ g .. | .ctz _ g .. | .popc _ g .. | .sext _ g .. | .zext _ g ..
  | .addw _ g .. | .subw _ g .. | .mulw _ g .. | .lea _ g .. | .bfx _ g .. | .bfi _ g .. | .cmp _ g .. | .cmpi _ g ..
  | .pand _ g .. | .por _ g .. | .pxor _ g .. | .pnot _ g .. | .stg _ g .. => !t.guardOn g
  | .br g _ | .call g _ | .ret g | .jmp g _ | .loop g .. | .lexit g | .rcall g _ | .rcallAsync g .. | .rret g
  | .wait g .. | .waitc g .. | .bar g | .yield g | .halt g | .trap g _ | .brk g _ | .setfm g .. | .setfcr g ..
  | .rdctl g .. | .wrctl g .. => !t.guardOn g
  | .tadd g .. | .tsub g .. | .tmul g .. | .tfma g .. | .tfms g .. | .tmin g .. | .tmax g .. | .tabs g .. | .tneg g ..
  | .tcmp g .. | .tsel g .. | .tcvt g .. | .iadd g .. | .isub g .. | .imul g .. | .imac g .. | .iadds g .. | .isubs g ..
  | .imin g .. | .imax g .. | .iand g .. | .ior g .. | .ixor g .. | .ishl g .. | .ishr g .. | .isar g .. | .icmp g ..
  | .tmov g .. | .tzero g _ | .tiota g _ | .tperm g .. | .tsl g .. | .tred g .. | .tmvs g .. | .mkand g .. | .mkor g ..
  | .mknot g .. | .mkpop g .. | .mkset g .. => !t.tguardOn g
  | .tld g .. | .tst g .. | .tldw g .. | .tstw g .. | .tldb g .. | .tldg g .. => !t.tguardOn g
  | .ppac g .. | .accz g .. | .accrd g .. | .accwr g .. | .accld g .. | .accst g .. | .accexp g .. => !t.guardOn g
  | .ld8 g .. | .ld8u g .. | .ld16 g .. | .ld16u g .. | .ld32 g .. | .ld32u g .. | .ld64 g .. | .st8 g .. | .st16 g ..
  | .st32 g .. | .st64 g .. | .xfence g .. | .rel g | .wfence g | .pref g .. => !t.guardOn g
  | .cpy g .. | .cpya g .. | .cpyp g .. | .cpyu g .. | .cpyl g .. | .cpyx g .. | .sig g .. | .ixst g .. | .ixend g ..
  | .marr g .. => !t.guardOn g
  | _ => false

/-! ## Rows, element by element (R40, R155 to R157) -/

/-- Element j of a row as a type packs it (R40). -/
def elem (ty : ElemTy) (v : Row) (j : Nat) : Nat := v.toNat / 2 ^ (ty.width * j) % 2 ^ ty.width

/-- Element j of a row source: a broadcast fills every element from its scalar (R155, R156). -/
def operand (t : CoreTask) (ty : ElemTy) (r : RowSpec) (j : Nat) : Nat :=
  match r with
  | .bcast x => (t.src x).toNat % 2 ^ ty.width
  | r => match t.rowAt r with
    | some d => elem ty (t.row d) j
    | none => 0

/-- Whether a tile guard writes a lane (R157). -/
def laneOn (t : CoreTask) (g : TGuard) (k : Nat) : Prop :=
  match g with
  | .merge m | .zero m => (t.mask m).getLsbD k = true
  | _ => True

/-- What an element that a guard excludes becomes: the destination's, or zero (R157). -/
def keptElem (t : CoreTask) (g : TGuard) (ty : ElemTy) (d : RowAt) (j : Nat) : Nat :=
  match g with
  | .merge _ => elem ty (t.row d) j
  | _ => 0

/-- A row whose first n elements are `f`, the rest zero, under a guard. -/
def RowIs (t : CoreTask) (g : TGuard) (ty : ElemTy) (d : RowAt) (n : Nat) (f : Nat → Nat) (v : Row) : Prop :=
  ∀ j < ty.count,
    (laneOn t g (ty.lane j) → elem ty v j = if j < n then f j else 0) ∧
    (¬laneOn t g (ty.lane j) → elem ty v j = keptElem t g ty d j)

/-- Flags that are exactly those of the elements a guard writes (R48, R157). -/
def FlagsAre (t : CoreTask) (g : TGuard) (ty : ElemTy) (n : Nat) (fl : Nat → Flags) (F : Flags) : Prop :=
  ∀ b < 6, F.getLsbD b = true ↔ ∃ j < n, laneOn t g (ty.lane j) ∧ (fl j).getLsbD b = true

/-- A row syllable puts in flight, of class `cls`, the row whose elements are `f` with the flags `fl`; no LFSR turns. -/
def RowResult (s : State) (i : Instr) (g : TGuard) (cls : Nat) (ty : ElemTy) (d : RowSpec) (srcs : List RowSpec)
    (f : Nat → Nat) (fl : Nat → Flags) : Prop :=
  ∀ dd, TActs s i g → s.t.rowAt d = some dd → s.t.rowsOk srcs = true → ∃ v F,
    exec i s = .next (s.onT (·.rowResult cls dd v F)) ∧
    RowIs s.t g ty dd ty.count f v ∧ FlagsAre s.t g ty ty.count fl F

/-- How many of the first n elements share a lane. -/
def inLane (ty : ElemTy) (n k : Nat) : Nat := ((List.range n).filter fun j => ty.lane j = k).length

/-- n turns of an LFSR (R50). -/
def turned : Nat → BitVec 32 → BitVec 32
  | 0, x => x
  | n + 1, x => turned n (lfsrStep x)

/-- A rounding row syllable: element j is computed under its lane's LFSR as the earlier elements of the lane left it, and
in stochastic mode each element of a written lane turns that LFSR once (R51, R52, R157). -/
def RoundedRow (s : State) (i : Instr) (g : TGuard) (cls : Nat) (ty : ElemTy) (d : RowSpec) (srcs : List RowSpec)
    (mode : RMode) (n : Nat) (f : Nat → BitVec 32 → Nat × Flags) : Prop :=
  let st (j : Nat) : BitVec 32 :=
    if mode = .sr then turned (inLane ty j (ty.lane j)) (s.t.lfsrOf (ty.lane j)) else s.t.lfsrOf (ty.lane j)
  ∀ dd, TActs s i g → s.t.rowAt d = some dd → s.t.rowsOk srcs = true →
    (mode = .sr → s.t.turnDenied ty (s.t.tlanes g) n = none) → ∃ v F m,
      exec i s = .next (s.onT fun t => { t with r.lfsr := m }.rowResult cls dd v F) ∧
      RowIs s.t g ty dd n (fun j => (f j (st j)).1) v ∧ FlagsAre s.t g ty n (fun j => (f j (st j)).2) F ∧
      (mode ≠ .sr → m = s.t.r.lfsr) ∧
      (mode = .sr → ∀ k < 64, let u : CoreTask := { s.t with r.lfsr := m }
        (laneOn s.t g k → u.lfsrOf k = turned (inLane ty n k) (s.t.lfsrOf k)) ∧
        (¬laneOn s.t g k → u.lfsrOf k = s.t.lfsrOf k))

/-- A row syllable that writes a lane mask, of class `cls` (R162, R165, R170). -/
def MaskResult (s : State) (i : Instr) (g : TGuard) (cls : Nat) (srcs : List RowSpec) (k : Fin 4) (bit : Nat → Prop)
    (F : Flags) : Prop :=
  TActs s i g → s.t.rowsOk srcs = true → ∃ v : Word, (∀ j < 64, v.getLsbD j = true ↔ bit j) ∧
    exec i s = .next (s.onT (·.result cls (.mask k v) F))

/-- The balanced tree over 2^k elements from index i (R63). -/
def tree (f : FloatFmt) (ftz : Bool) (mode : RMode) (x : Nat → Nat) : Nat → Nat → Nat × Flags
  | 0, i => (x i, 0)
  | k + 1, i =>
    let a := tree f ftz mode x k (2 * i)
    let b := tree f ftz mode x k (2 * i + 1)
    let r := (f.read ftz a.1).add (f.read ftz b.1)
    let v := f.round ftz mode 0 r.1
    (v.1, a.2 ||| b.2 ||| r.2 ||| v.2)

/-- A finite value as an integer multiple of 2^e, for an e not above its exponent. -/
def scaled (e : Int) : FVal → Int
  | .fin n m x => (if n then -1 else 1) * (m * 2 ^ (x - e).toNat : Nat)
  | _ => 0

/-- M is the magnitude m · 2^e rounded to a multiple of 2^q, in units of it: to nearest with ties to even, toward zero, or up when the
discarded part and the top bits of the LFSR's state carry (R38, R45, R51). -/
def IsRounded (mode : RMode) (st : BitVec 32) (m : Nat) (e q : Int) (M : Nat) (inexact : Prop) : Prop :=
  let d := (q - e).toNat
  let w := m * 2 ^ (e - q).toNat
  let rest := w % 2 ^ d
  let k := min d 32
  let up : Prop := match mode with
    | .rne => 2 ^ d < 2 * rest ∨ (2 * rest = 2 ^ d ∧ w / 2 ^ d % 2 = 1)
    | .rtz => False
    | .sr => 2 ^ d ≤ rest + st.toNat / 2 ^ (32 - k) * 2 ^ (d - k)
  (inexact ↔ rest ≠ 0) ∧ (up → M = w / 2 ^ d + 1) ∧ (¬up → M = w / 2 ^ d)

/-! ## Events -/

/-- An event gives a core the task `q` describes and changes the task of no other core. -/
def OnCore (s : State) (i : Instr) (core : Nat) (q : State → CoreTask → Prop) : Prop :=
  ∃ u v, exec i s = .next u ∧ u.taskOn core = some v ∧ q u v ∧ ∀ k, k ≠ core → u.taskOn k = s.taskOn k

end Sys2Proof.Safety
end

