-- ==== Sys2Proof/Certificates/Slice0/Obligations.lean ====
section
/-! DEFINITION. The statements about this machine. -/

open Sys2Proof Sys2Proof.Machine Sys2Proof.Safety

/-! ## Scalar syllables -/

/-- The arithmetic rows of R133: each value in two's complement or unsigned arithmetic, of class 0 or 1 (R132). -/
def Obligations.ScalarArithmetic : Prop :=
  ∀ (sl : Slot) (g : Guard) (d : SDst) (a b : SSrc) (imm : Word) (k : Fin 8) (s : State),
    let A := s.t.src a
    let B := s.t.src b
    let gives (i : Instr) (cls : Nat) (v : Word) : Prop :=
      Acts s i g → exec i s = .next (s.onT (·.scalarResult cls sl d v))
    gives (.add sl g d a b) 0 (BitVec.ofNat 64 (A.toNat + B.toNat)) ∧
    gives (.sub sl g d a b) 0 (BitVec.ofInt 64 (A.toInt - B.toInt)) ∧
    gives (.addi sl g d a imm) 0 (BitVec.ofNat 64 (A.toNat + imm.toNat)) ∧
    gives (.mul sl g d a b) 1 (BitVec.ofNat 64 (A.toNat * B.toNat)) ∧
    gives (.mulh sl g d a b) 1 (BitVec.ofInt 64 ((A.toInt * B.toInt) / 2 ^ 64)) ∧
    gives (.mulhu sl g d a b) 1 (BitVec.ofNat 64 ((A.toNat * B.toNat) / 2 ^ 64)) ∧
    gives (.min sl g d a b) 0 (BitVec.ofInt 64 (min A.toInt B.toInt)) ∧
    gives (.max sl g d a b) 0 (BitVec.ofInt 64 (max A.toInt B.toInt)) ∧
    gives (.minu sl g d a b) 0 (BitVec.ofNat 64 (min A.toNat B.toNat)) ∧
    gives (.maxu sl g d a b) 0 (BitVec.ofNat 64 (max A.toNat B.toNat)) ∧
    gives (.addw sl g d a b) 0 (BitVec.ofInt 64 (Int.bmod (A.toInt + B.toInt) (2 ^ 32))) ∧
    gives (.subw sl g d a b) 0 (BitVec.ofInt 64 (Int.bmod (A.toInt - B.toInt) (2 ^ 32))) ∧
    gives (.mulw sl g d a b) 1 (BitVec.ofInt 64 (Int.bmod (A.toInt * B.toInt) (2 ^ 32))) ∧
    gives (.lea sl g d a b k) 0 (BitVec.ofNat 64 (A.toNat + B.toNat * 2 ^ k.val))

/-- The logic, shift, count, selection, extension and field rows of R133, bit by bit or in exact arithmetic. -/
def Obligations.ScalarBits : Prop :=
  (∀ (sl : Slot) (g : Guard) (d : SDst) (a b : SSrc) (imm : Word) (n : BitVec 6) (s : State),
     let A := s.t.src a
     let B := s.t.src b
     let gives (i : Instr) (cls : Nat) (p : Word → Prop) : Prop :=
       Acts s i g → ∃ v, p v ∧ exec i s = .next (s.onT (·.scalarResult cls sl d v))
     let bits (f : Bool → Bool → Bool) (y : Word) (v : Word) : Prop :=
       ∀ j < 64, v.getLsbD j = f (A.getLsbD j) (y.getLsbD j)
     gives (.and sl g d a b) 0 (bits (fun x y => x && y) B) ∧
     gives (.or sl g d a b) 0 (bits (fun x y => x || y) B) ∧
     gives (.xor sl g d a b) 0 (bits (fun x y => x != y) B) ∧
     gives (.andn sl g d a b) 0 (bits (fun x y => x && !y) B) ∧
     gives (.andi sl g d a imm) 0 (bits (fun x y => x && y) imm) ∧
     gives (.ori sl g d a imm) 0 (bits (fun x y => x || y) imm) ∧
     gives (.xori sl g d a imm) 0 (bits (fun x y => x != y) imm) ∧
     gives (.shl sl g d a b) 0 (fun v => v = BitVec.ofNat 64 (A.toNat * 2 ^ (B.toNat % 64))) ∧
     gives (.shr sl g d a b) 0 (fun v => v.toNat = A.toNat / 2 ^ (B.toNat % 64)) ∧
     gives (.sar sl g d a b) 0 (fun v => v.toInt = A.toInt / 2 ^ (B.toNat % 64)) ∧
     gives (.shli sl g d a n) 0 (fun v => v = BitVec.ofNat 64 (A.toNat * 2 ^ n.toNat)) ∧
     gives (.shri sl g d a n) 0 (fun v => v.toNat = A.toNat / 2 ^ n.toNat) ∧
     gives (.sari sl g d a n) 0 (fun v => v.toInt = A.toInt / 2 ^ n.toNat) ∧
     gives (.li sl g d imm) 0 (fun v => v = imm) ∧
     gives (.mov sl g d a) 0 (fun v => v = A) ∧
     gives (.clz sl g d a) 1 (fun v => v.toNat ≤ 64 ∧ (∀ j < 64, 64 - v.toNat ≤ j → A.getLsbD j = false) ∧
       (v.toNat < 64 → A.getLsbD (63 - v.toNat) = true)) ∧
     gives (.ctz sl g d a) 1 (fun v => v.toNat ≤ 64 ∧ (∀ j < v.toNat, A.getLsbD j = false) ∧
       (v.toNat < 64 → A.getLsbD v.toNat = true)) ∧
     gives (.popc sl g d a) 1 (fun v => v.toNat = ((List.range 64).filter fun j => A.getLsbD j).length)) ∧
  (∀ (sl : Slot) (g : Guard) (d : SDst) (a b : SSrc) (w : SWidth) (p : Fin 8) (lo : BitVec 6) (n : BitVec 7) (s : State),
     let A := s.t.src a
     let width := match w with | .b8 => 8 | .b16 => 16 | .b32 => 32
     let old := match d with
       | .reg r => s.t.sreg r
       | .latch => match sl with | .sa => s.t.r.b.ya | .sb => s.t.r.b.yb
     let gives (i : Instr) (q : Word → Prop) : Prop :=
       Acts s i g → ∃ v, q v ∧ exec i s = .next (s.onT (·.scalarResult 0 sl d v))
     (s.t.pred p = true → gives (.sel sl g d p a b) (fun v => v = A)) ∧
     (s.t.pred p = false → gives (.sel sl g d p a b) (fun v => v = s.t.src b)) ∧
     gives (.sext sl g d w a) (fun v => v.toInt = Int.bmod A.toNat (2 ^ width)) ∧
     gives (.zext sl g d w a) (fun v => v.toNat = A.toNat % 2 ^ width) ∧
     (1 ≤ n.toNat → lo.toNat + n.toNat ≤ 64 →
       gives (.bfx sl g d a lo n) (fun v => v.toNat = A.toNat / 2 ^ lo.toNat % 2 ^ n.toNat) ∧
       gives (.bfi sl g d a lo n) (fun v => ∀ j < 64,
         v.getLsbD j = if lo.toNat ≤ j ∧ j < lo.toNat + n.toNat then A.getLsbD (j - lo.toNat) else old.getLsbD j)))

/-- R134, R135, R133: compares and predicate syllables write one predicate, of class 0, and no latch; stg writes the staging
register and the slot's latch, both of class 0; nop writes nothing. -/
def Obligations.PredicatesStagingNop : Prop :=
  (∀ (sl : Slot) (g : Guard) (k l m : Fin 8) (a b : SSrc) (imm : Word) (s : State),
     let gives (i : Instr) (p : Prop) : Prop :=
       Acts s i g → ∃ v : Bool, (v = true ↔ p) ∧ exec i s = .next (s.onT (·.result 0 (.pred s.t.level k v) 0))
     let cond (cc : Cond) (x y : Word) : Prop := match cc with
       | .eq => x.toNat = y.toNat
       | .ne => x.toNat ≠ y.toNat
       | .lt => x.toInt < y.toInt
       | .ge => y.toInt ≤ x.toInt
       | .ltu => x.toNat < y.toNat
       | .geu => y.toNat ≤ x.toNat
     (∀ cc, gives (.cmp sl g cc k a b) (cond cc (s.t.src a) (s.t.src b)) ∧
       gives (.cmpi sl g cc k a imm) (cond cc (s.t.src a) imm)) ∧
     gives (.pand sl g k l m) (s.t.pred l = true ∧ s.t.pred m = true) ∧
     gives (.por sl g k l m) (s.t.pred l = true ∨ s.t.pred m = true) ∧
     gives (.pxor sl g k l m) (s.t.pred l ≠ s.t.pred m) ∧
     gives (.pnot sl g k l) (s.t.pred l = false)) ∧
  (∀ (sl : Slot) (g : Guard) (r : Stage) (a : SSrc) (s : State),
     (Acts s (.nop sl g) g → exec (.nop sl g) s = .next s) ∧
     (Acts s (.stg sl g r a) g → exec (.stg sl g r a) s = .next (s.onT fun t =>
       (t.result 0 (.sreg t.level none (some (slotLatch sl)) (s.t.src a)) 0).result 0 (.stage r (s.t.src a)) 0)))

/-- R109, R132, R157: a guarded-off syllable of any class changes nothing at all. That this takes in what no rule says of it, that a
guarded-off wait, waitc, bar or yield makes no pre-emption point, and that a guarded-off tile or plane syllable that names a gated tile or
a loop index beyond the depth raises no 0x02, is the model's choice: log entry 46. -/
def Obligations.GuardedOffSyllables : Prop :=
  ∀ (i : Instr) (s : State), guardOff s.t i = true → exec i s = .next s

/-! ## Results in flight -/

/-- R70, R75, R132: a scalar result becomes visible in its destination and latch after exactly L core cycles, and nothing else
of the task's registers or scratchpad changes then or before. R70, R134, R135: a predicate, a lane mask and a staging register
take their new value after exactly L core cycles; every other register of their kind, and the scratchpad, stay. R79, R152: a
write of fcr, fsr or fm is in force after exactly four core cycles, and the old value until then. -/
def Obligations.ResultsBecomeVisible : Prop :=
  (∀ (t : CoreTask) (cls : Nat) (sl : Slot) (d : SDst) (v : Word),
    t.pipe.pend = [] → t.pipe.loads = [] → t.lm.plane = [] → 1 ≤ t.latency cls →
    let u := t.scalarResult cls sl d v
    let w := CoreTask.landN (t.latency cls) u
    (∀ k < t.latency cls, (CoreTask.landN k u).r = t.r ∧ (CoreTask.landN k u).lm = t.lm) ∧
    w.latch (slotLatch sl) = v ∧ (∀ l, l ≠ slotLatch sl → w.latch l = t.latch l) ∧
    (∀ r, d = .reg r → w.sreg r = v) ∧ (∀ r, d ≠ .reg r → w.sreg r = t.sreg r) ∧
    (∀ k, w.pred k = t.pred k) ∧ (∀ k, w.mask k = t.mask k) ∧ (∀ x, w.row x = t.row x) ∧ (∀ x, w.stage x = t.stage x) ∧
    (∀ n r c, w.accEntry n r c = t.accEntry n r c) ∧ w.r.accExp = t.r.accExp ∧ w.r.w = t.r.w ∧ w.r.fm = t.r.fm ∧
    w.r.fcr = t.r.fcr ∧ w.r.fsr = t.r.fsr ∧ w.r.lfsr = t.r.lfsr ∧ w.r.b.loops = t.r.b.loops ∧ w.r.calls = t.r.calls ∧
    w.r.frames = t.r.frames ∧ w.r.lcycle = t.r.lcycle ∧ w.r.xpc = t.r.xpc ∧ w.r.xcause = t.r.xcause ∧
    w.r.xval = t.r.xval ∧ w.r.xmask = t.r.xmask ∧ w.lm = t.lm ∧ w.eng = t.eng) ∧
  (∀ (t : CoreTask) (cls : Nat) (e : Eff),
    t.pipe.pend = [] → t.pipe.loads = [] → t.lm.plane = [] → 1 ≤ t.latency cls →
    let u := t.result cls e 0
    let w := CoreTask.landN (t.latency cls) u
    (∀ k b, e = .pred t.level k b → w.pred k = b ∧ (∀ j, j ≠ k → w.pred j = t.pred j) ∧ (∀ r, w.sreg r = t.sreg r) ∧
      (∀ l, w.latch l = t.latch l) ∧ w.r.fsr = t.r.fsr ∧ w.lm = t.lm) ∧
    (∀ k m, e = .mask k m → w.mask k = m ∧ (∀ j, j ≠ k → w.mask j = t.mask j) ∧ (∀ x, w.row x = t.row x) ∧
      w.r.fsr = t.r.fsr ∧ w.lm = t.lm) ∧
    (∀ x v, e = .stage x v → w.stage x = v ∧ (∀ y, y ≠ x → w.stage y = t.stage y) ∧ (∀ r, w.sreg r = t.sreg r) ∧
      w.r.fsr = t.r.fsr ∧ w.lm = t.lm) ∧
    ((∃ k b, e = .pred t.level k b) ∨ (∃ k m, e = .mask k m) ∨ (∃ x v, e = .stage x v) →
      ∀ k < t.latency cls, (CoreTask.landN k u).r = t.r ∧ (CoreTask.landN k u).lm = t.lm)) ∧
  (∀ (t : CoreTask), t.pipe.pend = [] → t.pipe.loads = [] → t.lm.plane = [] →
    (∀ v : BitVec 3, (∀ k < 4, (CoreTask.landN k (t.shadow (.fcr v))).r = t.r) ∧
      (CoreTask.landN 4 (t.shadow (.fcr v))).r = { t.r with fcr := v }) ∧
    (∀ v : Flags, (∀ k < 4, (CoreTask.landN k (t.shadow (.fsr v))).r = t.r) ∧
      (CoreTask.landN 4 (t.shadow (.fsr v))).r = { t.r with fsr := v }) ∧
    (∀ (n : Fin 8) (v : Word), (∀ k < 4, (CoreTask.landN k (t.shadow (.fm n v))).r = t.r) ∧
      (CoreTask.landN 4 (t.shadow (.fm n v))).fm n.val = v ∧
      (∀ j, j ≠ n.val → (CoreTask.landN 4 (t.shadow (.fm n v))).fm j = t.fm j)))

/-! ## Control syllables -/

/-- R138, R139, R130: what br, call, ret and jmp do to the pc's next choice and to the call stack. A return index that is no group
start, kept by a call at the end of the code: log entry 46. -/
def Obligations.Transfers : Prop :=
  ∀ (g : Guard) (disp : Word) (a : SSrc) (s : State),
    let t := s.t
    let target := (BitVec.ofNat 64 t.pipe.grp.start + disp).toNat
    let goes (u : CoreTask) (k : Nat) : CoreTask := { u with pipe.grp.xfer := some k, pipe.hold := 1 }
    let traps (cause : Nat) : State := s.onT (·.raise { cause, sub := 0, cls := 5, val := 0, reason := 0 })
    (Acts s (.br g disp) g →
      (t.isStart target → exec (.br g disp) s = .next { s with t := goes t target }) ∧
      (¬t.isStart target → exec (.br g disp) s = .next (s.onT (·.badTarget target)))) ∧
    (Acts s (.call g disp) g →
      (t.r.calls.length < 16 → t.isStart target → exec (.call g disp) s = .next
        { s with t := goes { t with r.calls :=
          { level := t.level, depth := t.r.b.loops.length, ret := t.pipe.grp.next } :: t.r.calls } target }) ∧
      (t.r.calls.length < 16 → ¬t.isStart target → exec (.call g disp) s = .next (s.onT (·.badTarget target))) ∧
      (16 ≤ t.r.calls.length → t.isStart target → exec (.call g disp) s = .next (traps 0x0B))) ∧
    (Acts s (.jmp g a) g →
      ((t.src a).toNat < t.code.textLen → t.isStart (t.src a).toNat →
        exec (.jmp g a) s = .next { s with t := goes t (t.src a).toNat }) ∧
      (t.code.textLen ≤ (t.src a).toNat ∨ ¬t.isStart (t.src a).toNat →
        exec (.jmp g a) s = .next (s.onT (·.badTarget (t.src a).toNat)))) ∧
    (Acts s (.ret g) g →
      (∀ e rest, t.r.calls = e :: rest → e.level = t.level → e.depth = t.r.b.loops.length →
        (t.isStart e.ret → exec (.ret g) s = .next { s with t := goes { t with r.calls := rest } e.ret }) ∧
        (¬t.isStart e.ret → exec (.ret g) s = .next (s.onT (·.badTarget e.ret)))) ∧
      (∀ e rest, t.r.calls = e :: rest → e.level = t.level → e.depth ≠ t.r.b.loops.length →
        exec (.ret g) s = .next (traps 0x0A)) ∧
      ((∀ e ∈ t.r.calls.head?, e.level ≠ t.level) → exec (.ret g) s = .next (traps 0x0B)))

/-- R140: every case of loop. That a count of 0 skips the body at depth 6 too: log entry 36. -/
def Obligations.LoopPush : Prop :=
  ∀ (g : Guard) (a : SSrc) (disp : BitVec 32) (s : State),
    let t := s.t
    let n := (t.src a).toNat
    let last := (BitVec.ofNat 64 t.pipe.grp.start + disp.signExtend 64).toNat
    let traps : State := s.onT (·.raise { cause := 0x0A, sub := 0, cls := 5, val := 0, reason := 0 })
    Acts s (.loop g a disp) g → t.pipe.grp.start < last → t.isStart last →
      (n = 0 → exec (.loop g a disp) s = .next { s with t := { t with pipe.grp.xfer := some (t.afterGroup 16384 last) } }) ∧
      (2 ^ 32 ≤ n → exec (.loop g a disp) s = .next traps) ∧
      (n ≠ 0 → 6 ≤ t.r.b.loops.length → exec (.loop g a disp) s = .next traps) ∧
      (n ≠ 0 → n < 2 ^ 32 → t.r.b.loops.length < 6 → ∃ u, exec (.loop g a disp) s = .next u ∧ u = { s with t := { t with
        r.b.loops := { count := n, idx := 0, first := t.pipe.grp.next, last } :: t.r.b.loops,
        pipe.grp.xfer := some t.pipe.grp.next } } ∧
        ∀ (k : Fin 16) (lvl : Fin 6), lvl.val = t.r.b.loops.length → t.tileOk k.val = true →
          u.t.rowAt (.idx k lvl) = some (.tile k.val 0))

/-- R142: lexit pops the innermost level and goes on after its last group, with no back-edge; at depth 0, and at the depth
that the current level's top call entry saved, it raises 0x0A. -/
def Obligations.LoopExit : Prop :=
  ∀ (g : Guard) (s : State),
    let t := s.t
    let traps : State := s.onT (·.raise { cause := 0x0A, sub := 0, cls := 5, val := 0, reason := 0 })
    Acts s (.lexit g) g →
      (t.r.b.loops = [] → exec (.lexit g) s = .next traps) ∧
      (∀ e rest, t.r.b.loops = e :: rest →
        ((∃ c ∈ t.r.calls.head?, c.level = t.level ∧ c.depth = rest.length + 1) → exec (.lexit g) s = .next traps) ∧
        ((∀ c ∈ t.r.calls.head?, c.level = t.level → c.depth ≠ rest.length + 1) → ∃ u,
          exec (.lexit g) s = .next u ∧
          u = { s with t := { t with r.b.loops := rest, pipe.grp.xfer := some (t.afterGroup 16384 e.last) } } ∧
          u.t.chooseNext.r.pc = t.afterGroup 16384 e.last ∧ u.t.chooseNext.r.b.loops = rest))

/-- R141: after a group with no transfer, the levels that end with it are popped from the innermost out, and the first
level that does not end takes its back-edge, which makes the group a pre-emption point; else the next group follows. A
transfer replaces the choice and no index changes. -/
def Obligations.SequencerChoice : Prop :=
  ∀ (t : CoreTask) (ended rest : List LoopEnt),
    t.r.b.loops = ended ++ rest → (∀ e ∈ ended, e.last = t.pipe.grp.start ∧ e.count ≤ e.idx + 1) →
    let point (b : Bool) : Prop := ∀ s : State, s.t = t → t.pipe.grp.soft = none → t.pipe.grp.halting = false →
      s.endGroup.t.r = t.chooseNext.r ∧ s.endGroup.t.pipe.ppoint = b
    (t.pipe.grp.xfer = none →
      ((∀ e ∈ rest.head?, e.last ≠ t.pipe.grp.start) →
        t.chooseNext.r.pc = t.pipe.grp.next ∧ t.chooseNext.r.b.loops = rest ∧ point t.pipe.ppoint) ∧
      (∀ e outer, rest = e :: outer → e.last = t.pipe.grp.start → e.idx + 1 < e.count →
        t.chooseNext.r.pc = e.first ∧ t.chooseNext.r.b.loops = { e with idx := e.idx + 1 } :: outer ∧ point true)) ∧
    (∀ k, t.pipe.grp.xfer = some k → t.chooseNext.r.pc = k ∧ t.chooseNext.r.b.loops = t.r.b.loops ∧ point t.pipe.ppoint)

/-- R144, R222, R224, R225: a call bound to its definition enters the body on a fresh bank with g0 to g7 in s24 to s31, one
level down; a call bound to its native unit is queued with its arguments, and a synchronous caller waits for it. rcall.async
counts one on its counter either way. A call at level 4 raises 0x0B. R144: rret restores the caller's bank and latency header,
drops the level's call entries and goes on at the return index; an asynchronous call's counter falls by one. At level 0 it
raises 0x0B. -/
def Obligations.Routines : Prop :=
  ((∀ (g : Guard) (idx : BitVec 12) (n : Fin 16) (r : Routine) (ranges : List (Nat × Nat)) (s : State),
     s.t.routineOf idx.toNat = some r → s.t.level < 4 → s.t.callRanges idx.toNat r = .ok ranges →
     s.t.eng.natives = [] → CoreTask.isNative r = false →
     let enters (u : State) (async : Option Nat) : Prop :=
       u.t.level = s.t.level + 1 ∧
       u.t.r.frames = { idx := idx.toNat, ret := s.t.pipe.grp.next, bank := s.t.r.b, lat := s.t.code.lat, async,
                        ranges, saved := none, flags := 0x3F, back := none } :: s.t.r.frames ∧
       (∀ k : Fin 8, u.t.sreg (.s ⟨24 + k.val, by omega⟩) = s.t.stage (.g k)) ∧
       (∀ k : Fin 8, u.t.sreg (.s ⟨16 + k.val, by omega⟩) = 0) ∧ (∀ k : Fin 4, u.t.sreg (.q k) = 0) ∧
       (∀ k : Fin 16, u.t.sreg (.s ⟨k.val, by omega⟩) = s.t.sreg (.s ⟨k.val, by omega⟩)) ∧
       u.t.r.b.loops = [] ∧ u.t.pipe.grp.xfer = some r.base ∧ u.t.pipe.hold = 1 ∧ u.t.code.lat = r.lat
     (Acts s (.rcall g idx) g → ∃ u, exec (.rcall g idx) s = .next u ∧ enters u none ∧ ∀ k, u.t.ctr k = s.t.ctr k) ∧
     (Acts s (.rcallAsync g idx n) g → ∃ u, exec (.rcallAsync g idx n) s = .next u ∧ enters u (some n.val) ∧
       u.t.ctr n.val = (s.t.ctr n.val + 1) % 2 ^ 32 ∧ ∀ k, k ≠ n.val → u.t.ctr k = s.t.ctr k)) ∧
  (∀ (g : Guard) (idx : BitVec 12) (n : Fin 16) (r : Routine) (unit : Native) (ranges : List (Nat × Nat)) (s : State),
     s.t.routineOf idx.toNat = some r → r.bound = true → r.unit = some unit →
     (s.t.level < 4 → s.t.callRanges idx.toNat r = .ok ranges → s.t.eng.natives = [] →
       let queued (u : State) : Prop := ∃ c, u.t.eng.natives = [c] ∧ c.idx = idx.toNat ∧ c.unit = unit ∧
         c.args = (List.finRange 8).map (fun k => s.t.stage (.g k)) ∧ c.fcr = s.t.r.fcr ∧ c.ranges = ranges
       (Acts s (.rcall g idx) g → ∃ u, exec (.rcall g idx) s = .next u ∧ queued u ∧ .native ∈ u.t.pipe.waits ∧
         u.t.ctl.st = .waiting ∧ u.t.r = s.t.r) ∧
       (Acts s (.rcallAsync g idx n) g → ∃ u, exec (.rcallAsync g idx n) s = .next u ∧ queued u ∧
         u.t.pipe.waits = s.t.pipe.waits ∧ u.t.ctl = s.t.ctl ∧ u.t.ctr n.val = (s.t.ctr n.val + 1) % 2 ^ 32)))) ∧
  (∀ (g : Guard) (idx : BitVec 12) (n : Fin 16) (s : State), s.t.routineOf idx.toNat ≠ none → 4 ≤ s.t.level →
     let traps : Out := .next (s.onT (·.raise { cause := 0x0B, sub := 0, cls := 5, val := 0, reason := 0 }))
     (Acts s (.rcall g idx) g → exec (.rcall g idx) s = traps) ∧
     (Acts s (.rcallAsync g idx n) g → exec (.rcallAsync g idx n) s = traps)) ∧
  (∀ (g : Guard) (s : State), Acts s (.rret g) g →
    (s.t.r.frames = [] → exec (.rret g) s =
      .next (s.onT (·.raise { cause := 0x0B, sub := 0, cls := 5, val := 0, reason := 0 }))) ∧
    (∀ fr rest, s.t.r.frames = fr :: rest → fr.saved = none → fr.back = none → ∃ u, exec (.rret g) s = .next u ∧
      u.t.r.frames = rest ∧ u.t.r.b = fr.bank ∧ u.t.code.lat = fr.lat ∧
      u.t.r.calls = s.t.r.calls.filter (fun c => c.level ≤ rest.length) ∧
      u.t.pipe.grp.xfer = some fr.ret ∧ u.t.pipe.hold = 1 ∧ u.t.r.s = s.t.r.s ∧ u.t.r.tiles = s.t.r.tiles ∧
      u.t.r.fcr = s.t.r.fcr ∧ u.t.lm = s.t.lm ∧
      (∀ n, fr.async = some n → u.t.ctr n = (s.t.ctr n + (2 ^ 32 - 1)) % 2 ^ 32) ∧
      (∀ k, fr.async ≠ some k → u.t.ctr k = s.t.ctr k)))

/-- R145, R146, R149: wait and waitc are pre-emption points; a satisfied one costs nothing, and an unsatisfied one holds
the task. A satisfied wait with a timeout clears its predicate for the next group, and a completion word observed so orders what it tells
of (R248). A word in an uncorrectable sector stops the task at its wait with 0x0E: log entry 46. -/
def Obligations.Waits : Prop :=
  ∀ (g : Guard) (cc : WCond) (addr value timeout : SSrc) (k : Fin 8) (n : Fin 16) (thr : SSrc) (s : State),
    let t := s.t
    let a := (t.src addr).toNat
    let word : BitVec 32 := BitVec.ofNat 32 (t.scratchNat a 4)
    let v := (t.src value).setWidth 32
    let tt := (t.src timeout).toNat % 2 ^ 32
    let holds : Prop := match cc with
      | .eq => word = v
      | .ne => word ≠ v
      | .ge => (word - v).toNat < 2 ^ 31
      | .lt => 2 ^ 31 ≤ (word - v).toNat
    let point : CoreTask := { t with pipe.ppoint := true }
    let cleared : CoreTask := (point.observed a).schedule 1 0 (.pred t.level k false) 0
    (Acts s (.wait g cc addr value timeout k) g → a % 4 = 0 → a + 4 ≤ t.code.share - 0x8000 → t.rangeFault a 4 = none →
      (t.wordBad a = none →
        (holds → exec (.wait g cc addr value timeout k) s = .next { s with t := if tt = 0 then point.observed a else cleared }) ∧
        cleared.land.pred k = false ∧
        (¬holds → t.pipe.waits = [] → exec (.wait g cc addr value timeout k) s = .next { s with t :=
          { point with pipe.waits := [.word a cc v (tt != 0) tt k], ctl.st := .waiting } })) ∧
      (∀ b, t.wordBad a = some b → t.pipe.waits = [] → t.ctl.due = [] → exec (.wait g cc addr value timeout k) s = .next { s with t :=
        { point with pipe.waits := [.word a cc v (tt != 0) tt k], ctl.st := .waiting,
                     ctl.due := [{ cause := 0x0E, sub := 0, cls := 0, val := BitVec.ofNat 64 b, reason := 0 }] } })) ∧
    (Acts s (.wait g cc addr value timeout k) g → a % 4 ≠ 0 ∨ t.code.share - 0x8000 < a + 4 →
      exec (.wait g cc addr value timeout k) s =
        .next (s.onT (·.raise { cause := 0x03, sub := 0, cls := 5, val := t.src addr, reason := 0 }))) ∧
    (Acts s (.waitc g n thr) g →
      (t.ctr n.val ≤ (t.src thr).toNat % 2 ^ 32 → exec (.waitc g n thr) s = .next { s with t := point }) ∧
      ((t.src thr).toNat % 2 ^ 32 < t.ctr n.val → exec (.waitc g n thr) s = .next { s with t :=
        { point with pipe.waits := t.pipe.waits ++ [.ctr n.val ((t.src thr).toNat % 2 ^ 32)], ctl.st := .waiting } }))

/-- R147, R315: bar in a group of one task costs nothing; otherwise the task arrives and waits until the last arrival. -/
def Obligations.Barrier : Prop :=
  ∀ (g : Guard) (s : State), Acts s (.bar g) g →
    ((∀ p ∈ s.rest, State.mates s.t p = false) → .bar ∉ s.t.pipe.waits → ∃ u, exec (.bar g) s = .next u ∧
      u.t.pipe.waits = s.t.pipe.waits ∧ u.t.pipe.barArr = false ∧ u.t.pipe.ppoint = true ∧ u.t.ctl = s.t.ctl ∧
      u.t.r = s.t.r ∧ u.rest = s.rest) ∧
    ((∃ p ∈ s.rest, State.mates s.t p = true ∧ p.id.core ≠ s.t.id.core ∧ p.pipe.barArr = false ∧ p.ctl.st ≠ .halted) →
      exec (.bar g) s = .next { s with t := { s.t with
        pipe.ppoint := true, pipe.barArr := true, pipe.waits := s.t.pipe.waits ++ [.bar], ctl.st := .waiting } }) ∧
    ((∀ p ∈ s.rest, State.mates s.t p = true → p.pipe.barArr = true ∨ p.ctl.st = .halted) → ∃ u,
      exec (.bar g) s = .next u ∧ u.t.r = s.t.r ∧ u.t.ctl = s.t.ctl ∧ u.t.pipe.ppoint = true ∧ u.mem = s.mem ∧
      u.tasks.map (·.r) = s.tasks.map (·.r) ∧ (∀ p ∈ u.tasks, State.mates s.t p = true → p.pipe.barArr = false) ∧
      ∀ p ∈ s.rest, State.mates s.t p = false → p ∈ u.rest)

/-- R148, R150, R151, R345, R147: yield is a pre-emption point and nothing else; halt ends the task with its group, after its
native calls and, in a redundant launch, its meeting: the task is halted, its pc the group that follows, its other registers as they
are, and it counts as arrived at its group's barrier; inside a routine halt raises 0x0B. A group with a trap or brk stops after its
writes with every present syllable done, xpc the group and xval the code. -/
def Obligations.YieldHaltTrap : Prop :=
  (∀ (g : Guard) (code : BitVec 32) (s : State),
     (Acts s (.yield g) g → exec (.yield g) s = .next { s with t := { s.t with pipe.ppoint := true } }) ∧
     (Acts s (.halt g) g →
       (s.t.r.frames ≠ [] → exec (.halt g) s =
         .next (s.onT (·.raise { cause := 0x0B, sub := 0, cls := 5, val := 0, reason := 0 }))) ∧
       (s.t.r.frames = [] → s.t.id.copies ≤ 1 →
         (s.t.eng.natives = [] → exec (.halt g) s = .next { s with t := { s.t with pipe.grp.halting := true } }) ∧
         (s.t.eng.natives ≠ [] → exec (.halt g) s = .next { s with t := { s.t with
           pipe.grp.halting := true, pipe.waits := s.t.pipe.waits ++ [.halt], ctl.st := .waiting } })) ∧
       (s.t.r.frames = [] → 1 < s.t.id.copies →
         (s.t.eng.natives = [] → exec (.halt g) s = .next { s with t := { s.t with
           pipe.grp.halting := true, pipe.waits := s.t.pipe.waits ++ [.meet .halt], ctl.st := .waiting } }) ∧
         (s.t.eng.natives ≠ [] → exec (.halt g) s = .next { s with t := { s.t with
           pipe.grp.halting := true, pipe.waits := s.t.pipe.waits ++ [.halt] ++ [.meet .halt], ctl.st := .waiting } }))) ∧
     (Acts s (.trap g code) g → exec (.trap g code) s = .next { s with t := { s.t with
       pipe.grp.soft := some { cause := 0x0F, sub := 0, cls := 5, val := code.setWidth 64, reason := 0 } } }) ∧
     (Acts s (.brk g code) g → exec (.brk g code) s = .next { s with t := { s.t with
       pipe.grp.soft := some { cause := 0x10, sub := 0, cls := 5, val := code.setWidth 64, reason := 0 } } })) ∧
  (∀ (tr : Trap) (s : State), s.t.pipe.grp.soft = some tr → s.t.pipe.grp.failed = 0 → s.t.pipe.waits = [] →
     tr.sub = 0 → tr.cls = 5 → tr.cause = 0x0F ∨ tr.cause = 0x10 →
     let u := s.endGroup
     u.t.ctl.st = .faulted ∧ u.t.r.xpc = BitVec.ofNat 64 s.t.pipe.grp.start ∧ u.t.r.xval = tr.val ∧
     u.t.r.xcause = BitVec.ofNat 32 (5 * 4096 + tr.cause) ∧ u.t.r.pc = s.t.pipe.grp.start ∧
     (∀ k < 8, k ≠ 6 → u.t.r.xmask.getLsbD k = s.t.pipe.grp.present.getLsbD k) ∧
     u.t.r.s = s.t.r.s ∧ u.t.r.b = s.t.r.b ∧ u.t.lm = s.t.lm ∧ u.rest = s.rest ∧ u.mem = s.mem) ∧
  (∀ s : State, s.t.pipe.grp.soft = none → s.t.pipe.grp.halting = true →
     let u := s.endGroup
     u.t.ctl = { s.t.ctl with st := .halted } ∧ u.t.r = { s.t.r with pc := s.t.pipe.grp.next } ∧ u.t.eng = s.t.eng ∧
     u.t.lm.scratch = s.t.lm.scratch ∧ u.rest.map (·.r) = s.rest.map (·.r) ∧ u.mem = s.mem ∧
     ((∃ p ∈ s.rest, State.mates s.t p = true ∧ p.pipe.barArr = true) →
       (∀ p ∈ s.rest, State.mates s.t p = true → p.pipe.barArr = true ∨ p.ctl.st = .halted) →
       ∀ p ∈ u.rest, State.mates s.t p = true → p.pipe.barArr = false))

/-- R345, R77, R78: taking a trap writes xpc, xcause, xval and xmask, faults the task, and leaves its other registers, its
scratchpad and its engines as they are; of several syllables that trap in one group the lowest class is reported, none done.
R347, R85: a stop and its resume keep every result in flight at its distance from the group at xpc, and keep the done syllables
suppressed.
A stop before a resumed group keeps its suppressed syllables: log entry 7. -/
def Obligations.TrapsAndResumes : Prop :=
  ((∀ (t : CoreTask) (tr : Trap) (pc : Nat) (mask : BitVec 32) (before : Bool),
     tr.cause < 256 → tr.sub < 16 → tr.cls < 8 → .meet .marr ∉ t.pipe.waits →
     let u := t.takeTrap tr pc mask before
     u.r.xpc = BitVec.ofNat 64 pc ∧ u.r.xval = tr.val ∧ u.r.xmask = mask ∧
     u.r.xcause.toNat % 256 = tr.cause ∧ u.r.xcause.toNat / 256 % 16 = tr.sub ∧
     u.r.xcause.toNat / 4096 % 8 = (if before then 0 else tr.cls) ∧ u.r.xcause.getLsbD 15 = before ∧
     u.r.xcause.toNat / 65536 = 0 ∧
     u.r.pc = pc ∧ u.ctl.st = .faulted ∧ u.ctl.stopVal = some tr ∧
     u.r = { t.r with pc := pc, xpc := u.r.xpc, xcause := u.r.xcause, xval := tr.val, xmask := mask } ∧
     u.lm = t.lm ∧ u.eng = t.eng ∧ u.code = t.code ∧ u.id = t.id ∧ u.pipe.loads = t.pipe.loads) ∧
  (∀ (t : CoreTask) (x y : Trap), t.pipe.grp.trap = none → x.cls < 8 → y.cls < 8 → x.cls ≠ y.cls →
     let u := (t.raise x).raise y
     u.pipe.grp.trap = some (if x.cls < y.cls then x else y) ∧
     (∀ k < 8, u.pipe.grp.failed.getLsbD k = (t.pipe.grp.failed.getLsbD k || decide (k = x.cls) || decide (k = y.cls))) ∧
     u.r = t.r ∧ u.lm = t.lm ∧ u.eng = t.eng ∧ u.pipe.pend = t.pipe.pend)) ∧
  (∀ (t : CoreTask) (tr : Trap) (pc : Nat) (mask : BitVec 32), .meet .marr ∉ t.pipe.waits →
    t.pipe.grp.cycle = t.pipe.cycle →
    let u := (t.takeTrap tr pc mask false).resumeFrom
    u.pipe.pend.map (fun p => (p.left, p.ord, p.eff)) = t.pipe.pend.map (fun p => (p.left + 1, p.ord, p.eff)) ∧
    u.pipe.suppress = mask.setWidth 8 ∧ u.r.pc = pc ∧ u.r.s = t.r.s ∧ u.r.b = t.r.b ∧ u.r.tiles = t.r.tiles ∧ u.lm = t.lm ∧
    u.r.lcycle = t.r.lcycle)

/-- R79, R152, R50: setfm and setfcr, and a wrctl of fcr, fsr or fm, write in the shadow of four cycles; a wrctl of an LFSR
writes at once, 0 becoming 1. A reserved rounding code is stored as 00. R77, R152: rdctl reads every listed control register, of
class 7, and writes no latch. -/
def Obligations.ControlRegisters : Prop :=
  (∀ (g : Guard) (k : Fin 8) (l : Fin 64) (a : SSrc) (s : State),
    let v := s.t.src a
    let fcr : BitVec 3 := if v.toNat % 4 = 3 then BitVec.ofNat 3 (v.toNat / 4 % 2 * 4) else BitVec.ofNat 3 v.toNat
    let later (e : Eff) : State := s.onT (·.schedule 4 0 e 0)
    let wr (n : Nat) : Instr := .wrctl g (BitVec.ofNat 12 n) a
    (Acts s (.setfm g k a) g → exec (.setfm g k a) s = .next (later (.fm k v))) ∧
    (Acts s (.setfcr g false a) g → exec (.setfcr g false a) s = .next (later (.fcr fcr))) ∧
    (Acts s (.setfcr g true a) g → exec (.setfcr g true a) s = .next (later (.fsr (BitVec.ofNat 6 v.toNat)))) ∧
    (Acts s (wr 0x000) g → exec (wr 0x000) s = .next (later (.fcr fcr))) ∧
    (Acts s (wr 0x001) g → exec (wr 0x001) s = .next (later (.fsr (BitVec.ofNat 6 v.toNat)))) ∧
    (Acts s (wr (0x010 + k.val)) g → exec (wr (0x010 + k.val)) s = .next (later (.fm k v))) ∧
    (Acts s (wr (0x100 + l.val)) g → s.t.r.frames = [] → ∃ u, exec (wr (0x100 + l.val)) s = .next u ∧
      (u.t.lfsrOf l.val).toNat = (if v.toNat % 2 ^ 32 = 0 then 1 else v.toNat % 2 ^ 32) ∧
      (∀ j, j ≠ l.val → u.t.lfsrOf j = s.t.lfsrOf j) ∧ u.t.pipe = s.t.pipe ∧ u.t.lm = s.t.lm)) ∧
  (∀ (g : Guard) (d : SReg) (s : State),
    let t := s.t
    let reads (n : Nat) (v : Word) : Prop := Acts s (.rdctl g d (BitVec.ofNat 12 n)) g → ∃ u,
      exec (.rdctl g d (BitVec.ofNat 12 n)) s = .next u ∧
      u.t.pipe = (t.result 7 (.sreg t.level (some d) none v) 0).pipe ∧ u.t.r = t.r ∧ u.t.lm = t.lm ∧ u.t.eng = t.eng ∧
      u.mem = s.mem ∧ u.rest = s.rest
    reads 0x000 (t.r.fcr.setWidth 64) ∧ reads 0x001 (t.r.fsr.setWidth 64) ∧
    (∀ k < 8, reads (0x010 + k) (t.fm k)) ∧
    reads 0x050 (BitVec.ofNat 64 t.id.cidBase) ∧ reads 0x051 (BitVec.ofNat 64 t.id.idx) ∧
    reads 0x052 (BitVec.ofNat 64 t.id.cnt) ∧ reads 0x053 (BitVec.ofNat 64 t.id.gidx) ∧
    reads 0x054 (BitVec.ofNat 64 t.id.cidx) ∧ reads 0x055 t.id.base ∧
    (t.pipe.recount = false → reads 0x056 t.r.lcycle) ∧ (t.pipe.recount = true → reads 0x056 (t.r.lcycle - 1)) ∧
    (t.id.copies ≤ 1 → reads 0x057 (BitVec.ofNat 64 s.deviceTime)) ∧
    reads 0x060 t.r.xpc ∧ reads 0x061 (t.r.xcause.setWidth 64) ∧ reads 0x062 t.r.xval ∧
    reads 0x063 (t.r.xmask.setWidth 64) ∧ (∀ k < 16, reads (0x070 + k) (BitVec.ofNat 64 (t.ctr k))) ∧
    (∀ k < 64, reads (0x100 + k) ((t.lfsrOf k).setWidth 64)))

/-! ## Tile rows -/

/-- R70, R75, R155: a result row becomes visible in its destination and in yt after exactly L core cycles; every other row,
and every other register and the scratchpad, stay as they are. -/
def Obligations.RowResultVisible : Prop :=
  ∀ (t : CoreTask) (cls : Nat) (d : RowAt) (v : Row) (F : Flags),
    t.pipe.pend = [] → t.pipe.loads = [] → t.lm.plane = [] → 1 ≤ t.latency cls →
    (∀ n r, d = .tile n r → r < 16) →
    let u := t.rowResult cls d v F
    let w := CoreTask.landN (t.latency cls) u
    (∀ k < t.latency cls, (CoreTask.landN k u).r = t.r ∧ (CoreTask.landN k u).lm = t.lm) ∧
    w.row d = v ∧ w.row .yt = v ∧
    (∀ (n r : Fin 16), d ≠ .tile n r → w.row (.tile n r) = t.row (.tile n r)) ∧
    (∀ n : Fin 4, d ≠ .h n → w.row (.h n) = t.row (.h n)) ∧
    w.r.fsr = t.r.fsr ||| (F &&& t.flagMask) ∧
    (∀ r, w.sreg r = t.sreg r) ∧ (∀ l, w.latch l = t.latch l) ∧ (∀ k, w.pred k = t.pred k) ∧
    w.r.mks = t.r.mks ∧ w.r.acc = t.r.acc ∧ w.r.accExp = t.r.accExp ∧ w.r.w = t.r.w ∧ w.r.fcr = t.r.fcr ∧
    w.r.lfsr = t.r.lfsr ∧ w.r.b.loops = t.r.b.loops ∧ w.lm = t.lm ∧ w.eng = t.eng

/-- R160: tadd, tsub, tmul, tfma and tfms compute each element exactly and round it once, with the flags of both. What one rounding
gives is stated in ExactNumbers. -/
def Obligations.TileFloatArithmetic : Prop :=
  ∀ (g : TGuard) (ty : ElemTy) (f : FloatFmt) (rnd : Rnd) (d a b : RowSpec) (s : State), ty.float? = some f →
    let t := s.t
    let mode := t.rmode rnd
    let x (j : Nat) : FVal := f.read t.ftz (operand t ty a j)
    let y (j : Nat) : FVal := f.read t.ftz (operand t ty b j)
    let z (j : Nat) : FVal := f.read t.ftz (operand t ty d j)
    let gives (i : Instr) (op : Nat → FVal × Flags) : Prop :=
      RoundedRow s i g 3 ty d [a, b] mode ty.count fun j st =>
        let v := f.round t.ftz mode st (op j).1
        (v.1, (op j).2 ||| v.2)
    gives (.tadd g ty rnd d a b) (fun j => (x j).add (y j)) ∧
    gives (.tsub g ty rnd d a b) (fun j => (x j).add (y j).neg) ∧
    gives (.tmul g ty rnd d a b) (fun j => (x j).mul (y j)) ∧
    gives (.tfma g ty rnd d a b) (fun j => (x j).fma (y j) (z j)) ∧
    gives (.tfms g ty rnd d a b) (fun j => (x j).fma (y j) (z j).neg)

/-- R44 to R47, R51, R160: sums, products and fused products of finite values are exact; an exact zero sum is +0 unless both addends
are −0; and every pattern of a format that is no NaN rounds to itself, with no flag. Any other value rounds to a multiple of the
place of its precision, or of the smallest subnormal, as its mode says; what exceeds the largest finite value overflows; a tiny
inexact result sets underflow, and a result that would be subnormal is flushed where fcr[2] says so. -/
def Obligations.ExactNumbers : Prop :=
  (∀ (na nb nc : Bool) (ma mb mc : Nat) (ea eb ec e e' : Int), e ≤ ea → e' ≤ eb →
    let x : FVal := .fin na ma ea
    let y : FVal := .fin nb mb eb
    let z : FVal := .fin nc mc ec
    scaled (e + e') (x.mul y).1 = scaled e x * scaled e' y ∧
    (e ≤ eb → scaled e (x.add y).1 = scaled e x + scaled e y) ∧
    (e + e' ≤ ec → scaled (e + e') (x.fma y z).1 = scaled e x * scaled e' y + scaled (e + e') z) ∧
    (e ≤ eb → scaled e x + scaled e y = 0 → ∃ k, (x.add y).1 = .fin (na && nb && ma == 0) 0 k) ∧
    (x.add y).2 = 0 ∧ (x.mul y).2 = 0) ∧
  (∀ (ty : ElemTy) (f : FloatFmt) (mode : RMode) (st : BitVec 32) (x : Nat), ty.float? = some f → x < 2 ^ ty.width →
    (f.read false x).isNaN = false → f.round false mode st (f.read false x) = (x, 0)) ∧
  (∀ (ty : ElemTy) (f : FloatFmt) (mode : RMode) (st : BitVec 32) (ftz neg : Bool) (m : Nat) (e : Int) (M : Nat) (inexact : Prop),
    ty.float? = some f → m ≠ 0 →
    let top := e + Nat.log2 m
    let q := max top f.emin - f.mb
    let r := f.round ftz mode st (.fin neg m e)
    IsRounded mode st m e q M inexact →
    let huge : Prop := f.maxQ < q ∨ (q = f.maxQ ∧ f.maxM < M)
    let flushed : Prop := ftz = true ∧ 0 < M ∧ M < 2 ^ f.mb
    (huge → r = (f.signBit neg + (if f.e4 = true ∨ mode = .rtz then f.maxBits else f.infBits), fOverflow ||| fInexact)) ∧
    (¬huge → flushed → r = (f.signBit neg, fUnderflow ||| fInexact)) ∧
    (¬huge → ¬flushed → scaled q (f.read false r.1) = scaled q (.fin neg M q) ∧ r.1 / 2 ^ (f.eb + f.mb) = (if neg then 1 else 0) ∧
      (inexact → r.2 = fInexact ||| (if top < f.emin then fUnderflow else 0)) ∧ (¬inexact → r.2 = 0)))

/-- R161 to R163, R165: the selections, sign operations and compares of rows. -/
def Obligations.TileCompareSelect : Prop :=
  ∀ (g : TGuard) (ty : ElemTy) (f : FloatFmt) (k : Fin 4) (d a b : RowSpec) (s : State),
    let t := s.t
    let A (j : Nat) : Nat := operand t ty a j
    let B (j : Nat) : Nat := operand t ty b j
    let per := 32 / ty.width
    let lane (ok : Nat → Prop) (k : Nat) : Prop :=
      if ty.width = 64 then ok (k / 2) else ∀ i < per, ok (k * per + i)
    (ty.float? = some f →
      let x (j : Nat) : FVal := f.read t.ftz (A j)
      let y (j : Nat) : FVal := f.read t.ftz (B j)
      let bits (v : FVal) : Nat := (f.round false .rne 0 v).1
      let signals (p : Nat → Bool) (j : Nat) : Flags := if p j then fInvalid else 0
      let either (j : Nat) : Bool := (x j).isNaN || (y j).isNaN
      let sig (j : Nat) : Bool := (x j).isSignalling || (y j).isSignalling
      RowResult s (.tmin g ty d a b) g 3 ty d [a, b]
        (fun j => if either j then f.canonNaN else bits (if (y j).ltTotal (x j) then y j else x j)) (signals sig) ∧
      RowResult s (.tmax g ty d a b) g 3 ty d [a, b]
        (fun j => if either j then f.canonNaN else bits (if (y j).ltTotal (x j) then x j else y j)) (signals sig) ∧
      RowResult s (.tneg g ty d a) g 3 ty d [a]
        (fun j => if (x j).isNaN then f.canonNaN else bits (x j).neg) (signals fun j => (x j).isSignalling) ∧
      RowResult s (.tabs g ty d a) g 3 ty d [a]
        (fun j => if (x j).isNaN then f.canonNaN else bits (match x j with
          | .fin _ m e => .fin false m e
          | .inf _ => .inf false
          | v => v)) (signals fun j => (x j).isSignalling) ∧
      (∀ cc, cc ≠ .ltu → cc ≠ .geu → ∃ F, MaskResult s (.tcmp g ty cc k a b) g 3 [a, b] k
        (lane fun j => match cc with
          | .eq => (x j).eqv (y j) = true
          | .ne => (x j).eqv (y j) = false
          | .lt => either j = false ∧ (x j).lt (y j) = true
          | _ => either j = false ∧ (x j).lt (y j) = false) F ∧
        (F = fInvalid ↔ ∃ j < ty.count, sig j = true) ∧ (F = 0 ↔ ∀ j < ty.count, sig j = false))) ∧
    (∀ cc, MaskResult s (.icmp g ty cc k a b) g 2 [a, b] k
      (lane fun j => match cc with
        | .eq => A j = B j
        | .ne => A j ≠ B j
        | .lt => ty.int (A j) < ty.int (B j)
        | .ge => ty.int (B j) ≤ ty.int (A j)
        | .ltu => A j < B j
        | .geu => B j ≤ A j) 0) ∧
    RowResult s (.tsel g k d a b) g 3 .i32 d [a, b]
      (fun j => if (t.mask k).getLsbD j then operand t .i32 a j else operand t .i32 b j) (fun _ => 0)

/-- R164: the integer rows, element by element, modulo 2^w or saturated to the type's range. -/
def Obligations.TileIntegerArithmetic : Prop :=
  ∀ (g : TGuard) (ty : ElemTy) (d a b : RowSpec) (s : State),
    let t := s.t
    let w := ty.width
    let A (j : Nat) : Nat := operand t ty a j
    let B (j : Nat) : Nat := operand t ty b j
    let D (j : Nat) : Nat := operand t ty d j
    let gives (i : Instr) (f : Nat → Nat) : Prop := RowResult s i g 2 ty d [a, b] f fun _ => 0
    let clamp (v : Int) : Int := max ty.lo (min ty.hi v)
    let sat (i : Instr) (v : Nat → Int) : Prop :=
      RowResult s i g 2 ty d [a, b] (fun j => (clamp (v j) % 2 ^ w).toNat)
        fun j => if ty.lo ≤ v j ∧ v j ≤ ty.hi then 0 else fSaturated
    gives (.iadd g ty d a b) (fun j => (A j + B j) % 2 ^ w) ∧
    gives (.isub g ty d a b) (fun j => (A j + 2 ^ w - B j) % 2 ^ w) ∧
    gives (.imul g ty d a b) (fun j => A j * B j % 2 ^ w) ∧
    gives (.imac g ty d a b) (fun j => (D j + A j * B j) % 2 ^ w) ∧
    (ty.isI = true → sat (.iadds g ty d a b) (fun j => ty.int (A j) + ty.int (B j)) ∧
      sat (.isubs g ty d a b) (fun j => ty.int (A j) - ty.int (B j))) ∧
    gives (.imin g ty d a b) (fun j => if ty.int (A j) ≤ ty.int (B j) then A j else B j) ∧
    gives (.imax g ty d a b) (fun j => if ty.int (A j) ≤ ty.int (B j) then B j else A j) ∧
    gives (.ishl g ty d a b) (fun j => if B j < w then A j * 2 ^ B j % 2 ^ w else 0) ∧
    gives (.ishr g ty d a b) (fun j => if B j < w then A j / 2 ^ B j else 0) ∧
    gives (.isar g ty d a b) (fun j =>
      ((BitVec.ofNat w (A j)).toInt / 2 ^ min (B j) (w - 1) % 2 ^ w).toNat) ∧
    (ty = .i32 →
      gives (.iand g d a b) (fun j => A j &&& B j) ∧
      gives (.ior g d a b) (fun j => A j ||| B j) ∧
      gives (.ixor g d a b) (fun j => A j ^^^ B j))

/-- R167, R169, R170: lane movements, the lane a scalar takes, and the mask operations. -/
def Obligations.TileMovesAndMasks : Prop :=
  ∀ (g : TGuard) (d a x : RowSpec) (n : BitVec 6) (k l m : Fin 4) (sd : SReg) (v : SSrc) (s : State),
    let t := s.t
    let A (j : Nat) : Nat := operand t .i32 a j
    let X (j : Nat) : Nat := operand t .i32 x j
    let moves (i : Instr) (cls : Nat) (srcs : List RowSpec) (f : Nat → Nat) : Prop :=
      RowResult s i g cls .i32 d srcs f fun _ => 0
    let masks (i : Instr) (f : Nat → Bool) : Prop := MaskResult s i g 2 [] k (fun j => f j = true) 0
    let scalar (i : Instr) (cls : Nat) (srcs : List RowSpec) (p : Word → Prop) : Prop :=
      TActs s i g → t.rowsOk srcs = true → ∃ y, p y ∧
        exec i s = .next (s.onT (·.result cls (.sreg t.level (some sd) none y) 0))
    moves (.tmov g d a) 2 [a] A ∧ moves (.tzero g d) 2 [] (fun _ => 0) ∧ moves (.tiota g d) 2 [] (fun j => j) ∧
    moves (.tperm g d a x) 4 [a, x] (fun j => A (X j % 64)) ∧
    moves (.tsl g d a n) 4 [a] (fun j => if j + n.toNat ≤ 63 then A (j + n.toNat) else 0) ∧
    scalar (.tmvs g .i32 sd a n) 4 [a] (fun y => y.toInt = (BitVec.ofNat 32 (A n.toNat)).toInt) ∧
    (n.toNat % 2 = 0 → scalar (.tmvs g .i64 sd a n) 4 [a] (fun y => y.toNat = operand t .i64 a (n.toNat / 2))) ∧
    masks (.mkand g k l m) (fun j => (t.mask l).getLsbD j && (t.mask m).getLsbD j) ∧
    masks (.mkor g k l m) (fun j => (t.mask l).getLsbD j || (t.mask m).getLsbD j) ∧
    masks (.mknot g k l) (fun j => !(t.mask l).getLsbD j) ∧
    masks (.mkset g k v) (fun j => (t.src v).getLsbD j) ∧
    scalar (.mkpop g sd l) 2 [] (fun y => y.toNat = ((List.range 64).filter fun j => (t.mask l).getLsbD j).length)

/-- R166, R168, R63: tcvt converts the first elements and zeroes the rest; tred writes its sum to element 0 of a row of
zeros, in floating point by the balanced tree. R49: between integers a value saturates, with its flag; to a float it is rounded once, and
a wider format takes it exactly; a NaN becomes canonical, invalid when it is signalling; an infinity into e4m3 is the largest finite
value of its sign, an overflow; to an integer it is rounded, and what lies beyond, or is no number, is invalid. -/
def Obligations.TileConvertReduce : Prop :=
  (∀ (src ty : ElemTy) (f h : FloatFmt) (ftz : Bool) (mode : RMode) (st : BitVec 32) (x : Nat), x < 2 ^ src.width →
    let r := convert src ty ftz mode st x
    let v := src.int x
    let y := f.read ftz x
    let int (n : Int) : Nat := (n % 2 ^ ty.width).toNat
    (src.float? = none → ty.float? = none →
      (ty.lo ≤ v → v ≤ ty.hi → r = (int v, 0)) ∧ (v < ty.lo → r = (int ty.lo, fSaturated)) ∧
      (ty.hi < v → r = (int ty.hi, fSaturated))) ∧
    (src.float? = none → ty.float? = some h → r = h.round ftz mode st (.fin (v < 0) v.natAbs 0)) ∧
    (src.float? = some f → ty.float? = some h →
      (∀ b, y = .nan b → r = (h.canonNaN, if b then fInvalid else 0)) ∧
      (∀ b, y = .inf b → r = (if h.e4 then (h.signBit b + h.maxBits, fOverflow ||| fInexact) else (h.signBit b + h.infBits, 0))) ∧
      (y.isNaN = false → r = h.round ftz mode st y) ∧
      (ftz = false → y.isNaN = false →
        ((src = .f16 ∨ src = .bf16) ∧ ty = .f32) ∨ ((src = .e5m2 ∨ src = .e4m3) ∧ (ty = .f32 ∨ ty = .f16 ∨ ty = .bf16)) →
        r.2 = 0 ∧ scaled (-150) (h.read false r.1) = scaled (-150) y ∧ (∀ b, y = .inf b → h.read false r.1 = .inf b))) ∧
    (src.float? = some f → ty.float? = none →
      (∀ b, y = .nan b → r = (0, fInvalid)) ∧
      (∀ b, y = .inf b → r = (int (if b then ty.lo else ty.hi), fInvalid)) ∧
      (∀ neg m e M inexact, y = .fin neg m e → IsRounded mode st m e 0 M inexact →
        let n : Int := if neg then -(M : Int) else M
        (ty.lo ≤ n → n ≤ ty.hi → r.1 = int n ∧ (inexact → r.2 = fInexact) ∧ (¬inexact → r.2 = 0)) ∧
        (n < ty.lo → r = (int ty.lo, fInvalid)) ∧ (ty.hi < n → r = (int ty.hi, fInvalid))))) ∧
  (∀ (g : TGuard) (ty src : ElemTy) (rnd : Rnd) (d a : RowSpec) (dd : RowAt) (s : State),
    let t := s.t
    let mode := t.rmode rnd
    RoundedRow s (.tcvt g ty src rnd d a) g 4 ty d [a] mode (min src.count ty.count)
      (fun j st => convert src ty t.ftz mode st (operand t src a j)) ∧
    (TActs s (.tred g ty rnd d a) g → t.rowAt d = some dd → t.rowsOk [a] = true →
      (∀ f x, ty.float? = some f → mode ≠ .sr →
        (∀ j < ty.count, (laneOn t g (ty.lane j) → x j = operand t ty a j) ∧
          (¬laneOn t g (ty.lane j) → x j = 2 ^ (ty.width - 1))) →
        ∀ k, 2 ^ k = ty.count → exec (.tred g ty rnd d a) s =
          .next (s.onT (·.rowResult 4 dd (BitVec.ofNat 2048 (tree f t.ftz mode x k 0).1) (tree f t.ftz mode x k 0).2))) ∧
      (∀ x, ty = .i32 ∨ ty = .i64 →
        (∀ j < ty.count, (laneOn t g (ty.lane j) → x j = operand t ty a j) ∧ (¬laneOn t g (ty.lane j) → x j = 0)) →
        exec (.tred g ty rnd d a) s = .next (s.onT (·.rowResult 4 dd
          (BitVec.ofNat 2048 (((List.range ty.count).map x).sum % 2 ^ ty.width)) 0))) ∧
      (∀ f, ty.float? = some f → mode = .sr → t.laneDenied [0] = none → ∃ v F u,
        exec (.tred g ty rnd d a) s = .next (s.onT fun t => { t with r.lfsr := u }.rowResult 4 dd v F) ∧
        v.toNat < 2 ^ ty.width ∧ { t with r.lfsr := u }.lfsrOf 0 = turned (ty.count - 1) (t.lfsrOf 0))))

/-! ## Planes and accumulators -/

/-- R175, R176, R178: a ppac that passes every check puts in flight, for each of the 32 columns, the signed count of the bits
that its A row and its B column share and the exponent of their places and scales. One that does not puts nothing in flight and traps,
in the order of R175's checks: 0x02 for a gated tile; 0x07 for a record that is ill-formed, or no view of one plane in pmm.blk (R240), and for a
slab beyond the read width; 0x03 for a block that is misaligned or leaves the reach; 0x0C for a footprint (R222, R226); 0x05 for a shared
bank group; and 0x06 for another swizzle tag. One that would read an uncorrectable sector holds its group back, before which its task stops
with 0x0E (R195; StepRunsDecodedInstruction states the stop). What the plane path reads is the scratchpad, where no
plane write lands in the cycle and no unordered write is near (R174, R247).
That a plane read of an uncorrectable sector stops so is the model's reading: log entry 56. The place of the footprint among the checks: log entry 46. -/
def Obligations.PlaneProduct : Prop :=
  ∀ (g : Guard) (acc : Fin 4) (r ra : Fin 32) (a b : SSrc) (ia ib : Fin 16) (x y : Fin 8) (s : State),
    let t := s.t
    let i : Instr := .ppac g acc r a b ia ib x y ra
    let fa := t.fm x.val
    let fb := t.fm y.val
    let va := (t.src a).toNat
    let vb := (t.src b).toNat
    let A := readsA fa va ia.val ra.val
    let B := readsB fb vb ib.val
    let reach := t.code.share - 0x8000
    let at_ (f : Word) (base k : Nat) : Bool := (t.planeByte (fmAddr f (base + k / 8))).getLsbD (k % 8)
    let scale (f : Word) (addr : Nat) : Int := if fmScales f then (t.planeByte (fmAddr f addr)).toInt else 0
    let negA := ia.val = 0 ∧ fmSign fa ≠ 0
    let negB := ib.val = 0 ∧ fmSign fb ≠ 0
    let bad (f : Word) : Prop := fmBad f = true ∨ (t.inPmm = true ∧ fmW f ≠ 1)
    let off (base f : Nat) : Prop := base % 512 ≠ 0 ∨ reach ≤ base
    let past (base f : Nat) : Prop := base % 512 = 0 ∧ base < reach ∧ reach < base + f * 512 + 64
    let inside (base f : Nat) : Prop := base % 512 = 0 ∧ base < reach ∧ base + f * 512 + 64 ≤ reach
    let disjoint : Prop := ∀ p ∈ A, ∀ q ∈ B, bankGroup p ≠ bankGroup q
    let tagged (f : Word) (p : Nat) : Prop := t.planeTag (p / 2048) = declaredTag f
    let places := A.map (fmAddr fa) ++ B.map (fmAddr fb)
    let formats : Prop := ¬bad fa ∧ ¬bad fb ∧ ia.val < fmW fa ∧ ib.val < fmW fb
    let blocks : Prop := inside va (fmS fa) ∧ inside vb (fmS fb)
    let free : Prop := ∀ p ∈ A ++ B, t.rangeFault p 1 = none
    let traps (cause val : Nat) : Prop :=
      exec i s = .next (s.onT (·.raise { cause, sub := 0, cls := 7, val := BitVec.ofNat 64 val, reason := 0 }))
    (t.lm.plane = [] → t.lm.behind = [] → ∀ p, t.planeByte p = t.scratchByte p ∧ t.planeTag p = mget 0 t.lm.tags p) ∧
    (Acts s i g → t.accOk acc = false → traps 0x02 0) ∧
    (Acts s i g → t.accOk acc = true →
      (formats → blocks → free → disjoint → (∀ p ∈ A, tagged fa p) → (∀ p ∈ B, tagged fb p) →
        ((∀ p ∈ places, p / 32 ∉ t.lm.bad) → ∃ v e : List Int,
          exec i s = .next (s.onT (·.result 6 (.ppac acc r.val v e) 0)) ∧ v.length = 32 ∧ e.length = 32 ∧
          ∀ c < 32,
            let n : Int := ((List.range 128).filter fun k =>
              at_ fa (va + ia.val * 512 + 16 * ra.val) k && at_ fb (vb + ib.val * 512 + 16 * c) k).length
            (v.getD c 0 = if negA ↔ negB then n else -n) ∧
            e.getD c 0 = ((fmS fa - 1 - ia.val : Nat) : Int) + ((fmS fb - 1 - ib.val : Nat) : Int) +
              scale fa (va + fmS fa * 512 + ra.val) + scale fb (vb + fmS fb * 512 + c)) ∧
        ((∃ p ∈ places, p / 32 ∈ t.lm.bad) → ∃ p ∈ places, p / 32 ∈ t.lm.bad ∧
          exec i s = .next (s.onT fun t => { t with pipe.grp.back := some (.memory p) }))) ∧
      (bad fa → traps 0x07 fa.toNat) ∧
      (¬bad fa → bad fb → traps 0x07 fb.toNat) ∧
      (¬bad fa → ¬bad fb → fmW fa ≤ ia.val → traps 0x07 fa.toNat) ∧
      (¬bad fa → ¬bad fb → ia.val < fmW fa → fmW fb ≤ ib.val → traps 0x07 fb.toNat) ∧
      (formats →
        (off va (fmS fa) → traps 0x03 va) ∧ (past va (fmS fa) → traps 0x03 reach) ∧
        (inside va (fmS fa) → (off vb (fmS fb) → traps 0x03 vb) ∧ (past vb (fmS fb) → traps 0x03 reach))) ∧
      (formats → blocks → ¬free → ∃ p ∈ A ++ B, ∃ k, t.rangeFault p 1 = some k ∧ traps 0x0C k) ∧
      (formats → blocks → free → ¬disjoint → ∃ p ∈ A, (∃ q ∈ B, bankGroup p = bankGroup q) ∧ traps 0x05 (bankGroup p * 17)) ∧
      (formats → blocks → free → disjoint → ((∃ p ∈ A, ¬tagged fa p) ∨ ∃ p ∈ B, ¬tagged fb p) → ∃ p,
        ((p ∈ A ∧ ¬tagged fa p) ∨ (p ∈ B ∧ ¬tagged fb p)) ∧ traps 0x06 (p / 2048 * 2048)))

/-- R175, R181 to R185: the accumulator syllables. An access that is misaligned or leaves the plane path's reach
traps with 0x03 and one in a footprint with 0x0C, with nothing in flight, and an accld of an uncorrectable sector holds its group back for
the stop with 0x0E (the model's reading: log entry 56); a stochastic accrd turns the LFSR of each lane it names once, at issue. -/
def Obligations.AccumulatorMoves : Prop :=
  ∀ (g : Guard) (acc : Fin 4) (r : Fin 32) (n : BitVec 6) (e : BitVec 16) (ty : ElemTy) (rnd : Rnd) (d a : RowSpec) (h : Bool)
    (x : SSrc) (s : State), s.t.accOk acc = true →
    let t := s.t
    let va := (t.src x).toNat
    let put (ef : Eff) : State := s.onT (·.result 6 ef 0)
    let lane (j : Nat) : Nat := if ty = .i64 then 2 * j else if h then 32 + j else j
    let reach := t.code.share - 0x8000
    let inside : Prop := va % 256 = 0 ∧ va < reach ∧ va + 256 * n.toNat ≤ reach
    let sound : Prop := ∀ p, va ≤ p → p < va + 256 * n.toNat → p / 32 ∉ t.lm.bad
    let traps (i : Instr) (cause v : Nat) : Prop :=
      exec i s = .next (s.onT (·.raise { cause, sub := 0, cls := 7, val := BitVec.ofNat 64 v, reason := 0 }))
    let stray (i : Instr) : Prop := (va % 256 ≠ 0 ∨ reach ≤ va → traps i 0x03 va) ∧
      (va % 256 = 0 → va < reach → reach < va + 256 * n.toNat → traps i 0x03 reach) ∧
      (∀ k, inside → t.rangeFault va (256 * n.toNat) = some k → traps i 0x0C k)
    (Acts s (.accz g acc r n e) g → exec (.accz g acc r n e) s = .next (put (.accz acc r.val n.toNat e))) ∧
    (Acts s (.accexp g acc e) g → exec (.accexp g acc e) s = .next (put (.accexp acc e))) ∧
    (∀ dd, t.rowAt d = some dd → Acts s (.accrd g acc r ty rnd d h) g →
      (t.rmode rnd ≠ .sr → ∃ l, exec (.accrd g acc r ty rnd d h) s =
        .next (put (.accrd acc r.val ty (t.rmode rnd) t.ftz dd h l))) ∧
      (t.rmode rnd = .sr → t.laneDenied ((List.range 32).map lane) = none → ∃ m,
        exec (.accrd g acc r ty rnd d h) s = .next (s.onT fun t => { t with r.lfsr := m }.result 6
          (.accrd acc r.val ty .sr t.ftz dd h ((List.range 32).map fun j => t.lfsrOf (lane j))) 0) ∧
        ∀ k < 64, { t with r.lfsr := m }.lfsrOf k =
          if (List.range 32).any (fun j => lane j == k) then lfsrStep (t.lfsrOf k) else t.lfsrOf k)) ∧
    (t.rowsOk [a] = true → Acts s (.accwr g acc r ty a h) g → ∃ v : List Word,
      exec (.accwr g acc r ty a h) s = .next (put (.accwr acc r.val v)) ∧ v.length = 32 ∧
      ∀ j < 32, (ty = .i64 → (v.getD j 0).toNat = operand t .i64 a j) ∧
        (ty = .i32 → (v.getD j 0).toInt = (BitVec.ofNat 32 (operand t .i32 a (if h then 32 + j else j))).toInt)) ∧
    (Acts s (.accld g acc r n x) g →
      (inside → t.rangeFault va (256 * n.toNat) = none → sound → ∃ v : List Word,
        exec (.accld g acc r n x) s = .next (put (.accld acc r.val v)) ∧
        v.length = 32 * n.toNat ∧ ∀ k < 32 * n.toNat, (v.getD k 0).toNat = t.planeNat (va + 8 * k) 8) ∧
      (∀ p, inside → t.rangeFault va (256 * n.toNat) = none → va ≤ p → p < va + 256 * n.toNat → p / 32 ∈ t.lm.bad →
        (∀ q < p, va ≤ q → q / 32 ∉ t.lm.bad) →
        exec (.accld g acc r n x) s = .next (s.onT fun t => { t with pipe.grp.back := some (.memory p) })) ∧
      stray (.accld g acc r n x)) ∧
    (Acts s (.accst g acc r n x) g →
      (inside → t.rangeFault va (256 * n.toNat) = none → exec (.accst g acc r n x) s = .next (put (.accst acc r.val n.toNat va))) ∧
      stray (.accst g acc r n x))

/-- R174, R176, R181 to R185: what each plane syllable does in its cycle of effect: the entries and the exponent of its own
accumulator tile, or the row or bytes it writes; every other entry and exponent, the scratchpad but for accst's bytes, and every
other register stay. R61, R183: accrd's row: each lane it writes is the entry, worth entry · 2^exponent, rounded or saturated to
its type; every other lane and every accumulator entry stays. -/
def Obligations.AccumulatorEffects : Prop :=
  (∀ (t : CoreTask) (acc : Fin 4) (r n addr : Nat) (v e : List Int) (w : List Word) (ex : BitVec 16) (ord : Nat), r < 32 →
    let ent (u : CoreTask) (k c : Nat) : Word := u.accEntry acc k c
    let keeps (ef : Eff) (own : Nat → Prop) : Prop :=
      let u := (t.applyEff ord ef).1
      (∀ (m : Fin 4) k c, k < 32 → c < 32 → m ≠ acc ∨ ¬own k → u.accEntry m k c = t.accEntry m k c) ∧
      (∀ m, m ≠ acc → u.exponent m = t.exponent m) ∧ (∀ x, u.row x = t.row x) ∧ (∀ x, u.sreg x = t.sreg x) ∧
      (∀ x, u.mask x = t.mask x) ∧ u.lm = t.lm ∧ u.r.fsr = t.r.fsr ∧ u.r.lfsr = t.r.lfsr
    let one (entry : Word) (v d : Int) (res : Word) (inexact : Prop) : Prop :=
      (0 ≤ d → res = BitVec.ofInt 64 (entry.toInt + v * 2 ^ d.toNat) ∧ ¬inexact) ∧
      (d < 0 → ∃ q : Int, res = BitVec.ofInt 64 (entry.toInt + q) ∧
        2 * (q * 2 ^ (-d).toNat - v).natAbs ≤ 2 ^ (-d).toNat ∧
        (2 * (q * 2 ^ (-d).toNat - v).natAbs = 2 ^ (-d).toNat → q % 2 = 0) ∧ (inexact ↔ q * 2 ^ (-d).toNat ≠ v))
    (let p := t.applyEff ord (.ppac acc r v e)
     (∃ hit : Nat → Prop, (∀ c < 32, one (ent t r c) (v.getD c 0) (e.getD c 0 - t.exponent acc) (ent p.1 r c) (hit c)) ∧
       (p.2 = fInexact ↔ ∃ c < 32, hit c) ∧ (p.2 = 0 ↔ ∀ c < 32, ¬hit c)) ∧
     p.1.exponent acc = t.exponent acc ∧ keeps (.ppac acc r v e) (· = r)) ∧
    (r + n ≤ 32 → let p := t.applyEff ord (.accz acc r n ex)
     (∀ k c, r ≤ k → k < r + n → c < 32 → ent p.1 k c = 0) ∧ p.1.exponent acc = ex.toInt ∧ p.2 = 0 ∧
     keeps (.accz acc r n ex) (fun k => r ≤ k ∧ k < r + n)) ∧
    (let p := t.applyEff ord (.accexp acc ex)
     (∃ hit : Nat → Nat → Prop, (∀ k < 32, ∀ c < 32,
         one 0 (ent t k c).toInt (t.exponent acc - ex.toInt) (ent p.1 k c) (hit k c)) ∧
       (p.2 = fInexact ↔ ∃ k < 32, ∃ c < 32, hit k c) ∧ (p.2 = 0 ↔ ∀ k < 32, ∀ c < 32, ¬hit k c)) ∧
     p.1.exponent acc = ex.toInt ∧ keeps (.accexp acc ex) (fun _ => True)) ∧
    (w.length = 32 → let p := t.applyEff ord (.accwr acc r w)
     (∀ c < 32, ent p.1 r c = w.getD c 0) ∧ p.2 = 0 ∧ p.1.exponent acc = t.exponent acc ∧ keeps (.accwr acc r w) (· = r)) ∧
    (r + n ≤ 32 → w.length = 32 * n → let p := t.applyEff ord (.accld acc r w)
     (∀ k c, k < n → c < 32 → ent p.1 (r + k) c = w.getD (32 * k + c) 0) ∧ p.2 = 0 ∧ p.1.exponent acc = t.exponent acc ∧
     keeps (.accld acc r w) (fun k => r ≤ k ∧ k < r + n)) ∧
    (t.lm.plane = [] → t.lm.undo = [] → t.lm.inbox = [] →
     let u := (t.applyEff ord (.accst acc r n addr)).1.closeCycle.settleScratch
     (∀ k c, k < n → c < 32 → u.scratchNat (addr + 256 * k + 8 * c) 8 = (ent t (r + k) c).toNat) ∧
     (∀ x, x < addr ∨ addr + 256 * n ≤ x → u.scratchByte x = t.scratchByte x) ∧
     (∀ x, addr ≤ x → x < addr + 256 * n → mget 0 u.lm.tags (x / 2048) = 0) ∧ u.r = t.r)) ∧
  (∀ (t : CoreTask) (acc : Fin 4) (r : Nat) (ty : ElemTy) (mode : RMode) (ftz h : Bool) (d : RowAt) (l : List (BitVec 32))
    (ord : Nat), ty = .f32 ∨ ty = .i32 ∨ ty = .i64 → r < 32 → d ≠ .yt →
    let p := t.applyEff ord (.accrd acc r ty mode ftz d h l)
    let value (c : Nat) : FVal :=
      .fin ((t.accEntry acc r c).toInt < 0) (t.accEntry acc r c).toInt.natAbs (t.exponent acc)
    let at_ (c : Nat) : Nat := if ty = .i64 then c else if h then 32 + c else c
    (∀ c < 32, ∃ q : Nat × Flags, elem ty (p.1.row d) (at_ c) = q.1 ∧ (∀ b, q.2.getLsbD b = true → p.2.getLsbD b = true) ∧
      (∀ f, ty.float? = some f → q = f.round ftz mode (l.getD c 0) (value c)) ∧
      (ty.float? = none → (BitVec.ofNat ty.width q.1).toInt = max ty.lo (min ty.hi
        (roundInt mode (l.getD c 0) ((t.accEntry acc r c).toInt < 0) (t.accEntry acc r c).toInt.natAbs (t.exponent acc)).1))) ∧
    (∀ j < 64, ty ≠ .i64 → (∀ c < 32, at_ c ≠ j) → elem .i32 (p.1.row d) j = elem .i32 (t.row d) j) ∧
    (∀ x, x ≠ d → (∀ n q, x = .tile n q → q < 16) → (∀ n q, d = .tile n q → q < 16) → p.1.row x = t.row x) ∧
    p.1.r.acc = t.r.acc ∧ p.1.r.accExp = t.r.accExp ∧ p.1.lm = t.lm ∧ p.1.r.fsr = t.r.fsr)

/-! ## Memory syllables -/

/-- R192, R193, R195: a scalar load from the task's own scratchpad puts in flight, of class 5, the effect that writes ym and its
register with the little-endian bytes, sign- or zero-extended, and nothing else; a byte of an uncorrectable sector makes the
task due for 0x0E at its address instead. A misaligned address, and one that names no memory, trap with 0x03. R72, R192 to
R194, R332: a scalar load from mapped main memory binds the value that its context's key reads there, under a lease the core
did not hold (unless a sector of the line is uncorrectable), and is answered later; no register and no memory byte changes. A
page that is missing or not readable traps with 0x04, and a walk that found it so counts (R356). The core path reads the scratchpad, where
no unordered write of another path is near (R247); a load settles which of those writes its path has seen (R258).
The load binds its value when it issues: log entry 14. -/
def Obligations.ScalarLoads : Prop :=
  (∀ (t : CoreTask) (path p : Nat), (∀ e ∈ t.lm.behind, e.addr = p → path ∉ e.readers) →
    t.pathByte path p = t.scratchByte p) ∧
  (∀ (g : Guard) (d : SDst) (x : SSrc) (disp : Word) (s : State) (i : Instr) (n : Nat) (signed : Bool),
    (i, n, signed) ∈ [(Instr.ld8 g d x disp, 1, true), (.ld8u g d x disp, 1, false), (.ld16 g d x disp, 2, true),
      (.ld16u g d x disp, 2, false), (.ld32 g d x disp, 4, true), (.ld32u g d x disp, 4, false),
      (.ld64 g d x disp, 8, false)] →
    let t := s.t
    let a := (t.src x + disp).toNat
    Acts s i g →
      (a % n = 0 → a < t.usable → t.rangeFault a n = none → ∃ e,
        exec i s = .next (s.onT fun t => (t.saw a n).result 5 e 0) ∧
        ∀ ord, let u := (t.applyEff ord e).1
          ((∀ k < n, (a + k) / 32 ∉ t.lm.bad) →
            (signed = true → (u.latch .ym).toInt = Int.bmod (t.pathNat 0 a n) (2 ^ (8 * n))) ∧
            (signed = false → (u.latch .ym).toNat = t.pathNat 0 a n) ∧
            (∀ r, d = .reg r → u.sreg r = u.latch .ym) ∧ (∀ r, d ≠ .reg r → u.sreg r = t.sreg r) ∧
            (∀ l, l ≠ .ym → u.latch l = t.latch l) ∧ (∀ k, u.pred k = t.pred k) ∧ u.r.mks = t.r.mks ∧
            u.r.tiles = t.r.tiles ∧ u.lm = t.lm ∧ u.ctl = t.ctl) ∧
          (∀ k < n, (a + k) / 32 ∈ t.lm.bad → (∀ j < k, (a + j) / 32 ∉ t.lm.bad) → u.r = t.r ∧ u.ctl.due = t.ctl.due ++
            [{ cause := 0x0E, sub := 0, cls := 0, val := BitVec.ofNat 64 (a + k), reason := 0 }])) ∧
      (a % n ≠ 0 ∨ s.place a = .none → exec i s =
        .next (s.onT (·.raise { cause := 0x03, sub := 0, cls := 3, val := BitVec.ofNat 64 a, reason := 0 })))) ∧
  (∀ (g : Guard) (d : SDst) (x : SSrc) (disp : Word) (s : State) (i : Instr) (n : Nat) (signed : Bool),
    (i, n, signed) ∈ [(Instr.ld8 g d x disp, 1, true), (.ld8u g d x disp, 1, false), (.ld16 g d x disp, 2, true),
      (.ld16u g d x disp, 2, false), (.ld32 g d x disp, 4, true), (.ld32u g d x disp, 4, false),
      (.ld64 g d x disp, 8, false)] →
    let t := s.t
    let a := (t.src x + disp).toNat
    let key := s.keyOf t.id.ctx
    Acts s i g → a % n = 0 → 2 ^ 24 ≤ a → a < 2 ^ 48 → t.usable ≤ a → t.r.frames = [] →
      (∀ pa s', s.translate t.id.core t.id.ctx a .r = .ok (pa, s') → pa % n = 0 → t.held.sectors = [] →
        s'.leaseOf t.id.core (pa / 128) = none → ∃ u l, exec i s = .next u ∧ u.t.pipe.loads = t.pipe.loads ++ [l] ∧
          l.ord = t.pipe.ord ∧ l.arrived = false ∧ l.vals = [leNat (s.physBytes key pa n)] ∧
          (l.bad = none ↔ ∀ k < n, (pa + k) / 32 ∉ s.mem.bad) ∧
          l.req.dst = CoreTask.dstReg d ∧ l.req.signed = signed ∧ l.req.size = n ∧
          u.t.pipe.pend = t.pipe.pend ∧ u.t.r = t.r ∧ u.t.lm.scratch = t.lm.scratch ∧ u.mem.phys = s.mem.phys ∧
          u.rest = s.rest ∧
          ((∀ j < 4, 4 * (pa / 128) + j ∉ s.mem.bad) →
            ∃ c ∈ u.t.lm.leases, c.line = pa / 128 ∧ u.t.lm.clock ≤ c.last)) ∧
      (∀ r, s.translate t.id.core t.id.ctx a .r = .error r → exec i s =
        .next ((if s.cached t.id.core t.id.ctx a = none then s.count t.id.ctx 14 1 else s).onT (·.raise { cause := 0x04, sub := 0, cls := 3, val := BitVec.ofNat 64 a, reason := r }))))

/-- R196, R197: the row loads from the task's own scratchpad, into rows of tiles, h rows and yt. Lane k takes four bytes: at 4k of a
row, at 4k and 256 + 4k of a pair's two rows, at 4(k mod 8) of a block; excluded lanes keep or become zero as the guard says, and no
other row and no latch changes. A base that is no multiple of 32 traps with 0x03. tldg is always answered later, with one value per
enabled lane of its index row.
A load binds at issue: log entry 14. -/
def Obligations.RowLoads : Prop :=
  ∀ (g : TGuard) (r ix : RowSpec) (x : SSrc) (disp : Word) (sc : Fin 4) (dd : RowAt) (s : State),
    let t := s.t
    let a := (t.src x + disp).toNat
    let lanes := (List.range 64).filter fun k => (t.tlanes g).getLsbD k
    let reach (at_ : Nat → Nat) : Prop := ∀ k ∈ lanes, at_ k < t.usable ∧ t.rangeFault (at_ k) 4 = none
    let value (p : Nat) : Nat := t.pathNat 0 p 4
    let loaded (u : CoreTask) (row : RowAt) (at_ : Nat → Nat) : Prop :=
      RowIs t g .i32 row 64 (fun k => value (at_ k)) (u.row row)
    let plain (i : Instr) (rows : List RowAt) (p : CoreTask → Prop) : Prop := ∃ e b,
      exec i s = .next (s.onT fun t => { t with lm.behind := b }.result 5 e 0) ∧ (t.lm.behind = [] → b = []) ∧ ∀ ord, let u := (t.applyEff ord e).1
        p u ∧ (∀ l, u.latch l = t.latch l) ∧ u.r.s = t.r.s ∧ u.r.mks = t.r.mks ∧ (∀ y, y ∉ rows → u.row y = t.row y) ∧ u.lm = t.lm
    t.rowAt r = some dd → t.usable ≤ 2 ^ 24 → t.lm.bad = [] →
      (a % 32 = 0 →
        (TActs s (.tld g r x disp) g → reach (fun k => a + 4 * k) →
          plain (.tld g r x disp) [dd] fun u => loaded u dd (fun k => a + 4 * k)) ∧
        (TActs s (.tldb g r x disp) g → reach (fun k => a + 4 * (k % 8)) →
          plain (.tldb g r x disp) [dd] fun u => loaded u dd (fun k => a + 4 * (k % 8))) ∧
        (∀ d2, t.rowAt (pairSpec r) = some d2 → d2 ≠ dd → TActs s (.tldw g r x disp) g →
          reach (fun k => a + 4 * k) → reach (fun k => a + 256 + 4 * k) →
          plain (.tldw g r x disp) [dd, d2] fun u => loaded u dd (fun k => a + 4 * k) ∧
            loaded u d2 (fun k => a + 256 + 4 * k))) ∧
      (a % 32 ≠ 0 → t.tlanes g ≠ 0 → ∀ i ∈ [Instr.tld g r x disp, .tldb g r x disp, .tldw g r x disp], TActs s i g →
        (i = .tldw g r x disp → t.rowAt (pairSpec r) ≠ none) → exec i s =
        .next (s.onT (·.raise { cause := 0x03, sub := 0, cls := 3, val := BitVec.ofNat 64 a, reason := 0 }))) ∧
      (let at_ (k : Nat) : Nat :=
        (BitVec.ofInt 64 ((t.src x).toInt + (BitVec.ofNat 32 (operand t .i32 ix k)).toInt * 2 ^ sc.val) : Word).toNat
       TActs s (.tldg g r x ix sc) g → t.rowsOk [ix] = true → (∀ k ∈ lanes, at_ k % 4 = 0) → reach at_ → ∃ l b,
        exec (.tldg g r x ix sc) s = .next (s.onT fun t =>
          { t with lm.behind := b, pipe.ord := t.pipe.ord + 1, pipe.loads := t.pipe.loads ++ [l] }) ∧
        l.arrived = false ∧ l.bad = none ∧ l.ord = t.pipe.ord ∧ l.vals = lanes.map (fun k => value (at_ k)) ∧
        l.req.row = some dd ∧ l.req.lanes = t.tlanes g)

/-- R192, R193, R195, R269: a scalar store changes exactly the n bytes from its address, little-endian. In the task's own
scratchpad no other byte, no register and no memory changes; in mapped main memory no byte changes as the context's key reads
it, and as any key reads the other sectors. A misaligned address traps with 0x03 and stores nothing.
How memory reads under another key is free: log entry 54. -/
def Obligations.ScalarStores : Prop :=
  ∀ (g : Guard) (x y : SSrc) (disp : Word) (s : State) (i : Instr) (n : Nat),
    (i, n) ∈ [(Instr.st8 g x disp y, 1), (.st16 g x disp y, 2), (.st32 g x disp y, 4), (.st64 g x disp y, 8)] →
    let t := s.t
    let a := (t.src x + disp).toNat
    let byte (k : Nat) : Nat := (t.src y).toNat / 2 ^ (8 * k) % 256
    let key := s.keyOf t.id.ctx
    Acts s i g →
      (a % n = 0 → a < t.usable → t.rangeFault a n = none → ∃ u, exec i s = .next u ∧
        (∀ k < n, (readByte u.t.lm.scratch (a + k)).toNat = byte k) ∧
        (∀ p, p < a ∨ a + n ≤ p → readByte u.t.lm.scratch p = readByte t.lm.scratch p) ∧
        (∀ p, u.t.scratchByte p = t.scratchByte p) ∧ (∀ k < n, mget 0 u.t.lm.tags ((a + k) / 2048) = 0) ∧
        u.t.r = t.r ∧ u.t.eng = t.eng ∧ u.t.pipe.pend = t.pipe.pend ∧ u.mem = s.mem ∧ u.rest = s.rest) ∧
      (a % n = 0 → 2 ^ 24 ≤ a → a < 2 ^ 48 → t.usable ≤ a → t.r.frames = [] → t.holds = false →
        (∀ pa s', s.translate t.id.core t.id.ctx a .w = .ok (pa, s') → pa % n = 0 → ∃ u, exec i s = .next u ∧
          (∀ k < n, (u.physByte key (pa + k)).toNat = byte k) ∧
          (∀ p, p < pa ∨ pa + n ≤ p → u.physByte key p = s.physByte key p) ∧
          (∀ p k, p / 32 ≠ pa / 32 → u.physByte k p = s.physByte k p) ∧
          u.t.r = t.r ∧ u.t.lm.scratch = t.lm.scratch ∧ u.t.eng = t.eng ∧ u.rest = s.rest ∧ u.mem.hdm = s.mem.hdm) ∧
        (∀ r, s.translate t.id.core t.id.ctx a .w = .error r → exec i s =
          .next ((if s.cached t.id.core t.id.ctx a = none then s.count t.id.ctx 14 1 else s).onT (·.raise { cause := 0x04, sub := 0, cls := 3, val := BitVec.ofNat 64 a, reason := r })))) ∧
      (a % n ≠ 0 ∨ s.place a = .none → exec i s =
        .next (s.onT (·.raise { cause := 0x03, sub := 0, cls := 3, val := BitVec.ofNat 64 a, reason := 0 })))

/-- R196: tst and tstw to the task's own scratchpad store the enabled lanes of one row, or of the rows of a pair, and no other
byte changes. -/
def Obligations.RowStores : Prop :=
  ∀ (g : TGuard) (r : RowSpec) (x : SSrc) (disp : Word) (s : State),
    let t := s.t
    let a := (t.src x + disp).toNat
    let on (k : Nat) : Prop := k < 64 ∧ (t.tlanes g).getLsbD k = true
    let reach (base : Nat) : Prop := ∀ k, on k → base + 4 * k < t.usable ∧ ∀ n ≤ 32, t.rangeFault (base + 4 * k) n = none
    let stored (u : State) (base : Nat) (row : RowSpec) : Prop := ∀ k, on k → ∀ j < 4,
      (readByte u.t.lm.scratch (base + 4 * k + j)).toNat = operand t .i32 row k / 2 ^ (8 * j) % 256
    let inside (p base : Nat) : Prop := ∃ k, on k ∧ base + 4 * k ≤ p ∧ p < base + 4 * k + 4
    let frame (u : State) : Prop := (∀ p, u.t.scratchByte p = t.scratchByte p) ∧ u.t.r = t.r ∧ u.t.eng = t.eng ∧
      u.mem = s.mem ∧ u.rest = s.rest
    a % 32 = 0 → t.usable ≤ 2 ^ 24 →
      (TActs s (.tst g r x disp) g → t.rowsOk [r] = true → reach a → ∃ u, exec (.tst g r x disp) s = .next u ∧
        stored u a r ∧ (∀ p, ¬inside p a → readByte u.t.lm.scratch p = readByte t.lm.scratch p) ∧ frame u) ∧
      (TActs s (.tstw g r x disp) g → t.rowsOk [r, pairSpec r] = true → reach a → reach (a + 256) → ∃ u,
        exec (.tstw g r x disp) s = .next u ∧ stored u a r ∧ stored u (a + 256) (pairSpec r) ∧
        (∀ p, ¬inside p a → ¬inside p (a + 256) → readByte u.t.lm.scratch p = readByte t.lm.scratch p) ∧ frame u)

/-- R198 to R201, R257, R260: the fences. What an xfence orders of the core path, whose accesses are performed, it orders at once. One
whose condition holds costs nothing, and what it names is in order from then on; otherwise the
task waits, and nothing else changes; an xfence that names engines holds those engines back, and the task goes on when it names no
other path. pref of an address that is not global does nothing, and one of a page that is missing only counts its walk.
Held commands are no part of a fence: log entry 8. -/
def Obligations.FencesAndPrefetch : Prop :=
  ∀ (g : Guard) (a b : BitVec 5) (x : SSrc) (disp : Word) (s : State),
    let t := s.t
    let waits (w : Wait) : State := { s with t := { t with pipe.waits := t.pipe.waits ++ [w], ctl.st := .waiting } }
    (Acts s (.xfence g a b) g →
      let first : State := s.onT (·.inOrder (a &&& 1) b t.pipe.ord)
      let held : State := if b.getLsbD 2 = true ∨ b.getLsbD 3 = true ∨ b.getLsbD 4 = true
        then first.onT fun t => { t with eng.fences := t.eng.fences ++ [(a, b, t.pipe.ord)], pipe.ord := t.pipe.ord + 1 } else first
      (b.getLsbD 0 = true ∨ b.getLsbD 1 = true →
        (t.performed a t.pipe.ord = true → exec (.xfence g a b) s = .next (held.onT (·.inOrder a b t.pipe.ord))) ∧
        (t.performed a t.pipe.ord = false → exec (.xfence g a b) s = .next (held.onT fun t =>
          { t with pipe.waits := t.pipe.waits ++ [.fence a b s.t.pipe.ord], ctl.st := .waiting }))) ∧
      (b.getLsbD 0 = false → b.getLsbD 1 = false → exec (.xfence g a b) s = .next held)) ∧
    (∀ c ∈ t.eng.cmds, c.held = false → c.ord < t.pipe.ord → a.getLsbD (cmdPath c) = true → t.performed a t.pipe.ord = false) ∧
    (Acts s (.rel g) g →
      (t.id.copies ≤ 1 →
        (t.eng.cmds = [] → t.eng.away = [] → (∀ p ∈ t.pipe.pend, (∀ n f k ad, p.eff ≠ .accst n f k ad) ∧ ∀ ad l, p.eff ≠ .planeBytes ad l) → s.pubOutstanding = false →
          exec (.rel g) s = .next (s.onT (·.inOrder 0x1F 0x1F t.pipe.ord))) ∧
        (∀ c ∈ t.eng.cmds, c.held = false → c.ord < t.pipe.ord →
          exec (.rel g) s = .next (waits (.rel t.pipe.ord)))) ∧
      (1 < t.id.copies → exec (.rel g) s = .next (waits (.meet .rel)))) ∧
    (Acts s (.wfence g) g →
      ((∀ c ∈ t.eng.cmds, c.ord < t.pipe.ord → cmdPath c = 4 → c.units = c.total) → t.eng.away = [] →
        (∀ w ∈ t.eng.linkWins, w.1 < t.pipe.ord → w.2 ≤ s.deviceTime) → exec (.wfence g) s = .next s) ∧
      (∀ w ∈ t.eng.linkWins, w.1 < t.pipe.ord → s.deviceTime < w.2 →
        exec (.wfence g) s = .next (waits (.wfence t.pipe.ord)))) ∧
    (Acts s (.pref g x disp) g →
      ((t.src x + disp).toNat < 2 ^ 24 ∨ 2 ^ 48 ≤ (t.src x + disp).toNat → exec (.pref g x disp) s = .next s) ∧
      (∀ pa s', 2 ^ 24 ≤ (t.src x + disp).toNat → (t.src x + disp).toNat < 2 ^ 48 →
        s.translate t.id.core t.id.ctx (t.src x + disp).toNat .r = .ok (pa, s') → ∃ u, exec (.pref g x disp) s = .next u ∧
        u.t.r = t.r ∧ u.t.pipe = t.pipe ∧ u.t.lm.scratch = t.lm.scratch ∧ u.mem.phys = s.mem.phys ∧ u.rest = s.rest ∧
        ((∀ j < 4, 4 * (pa / 128) + j ∉ s.mem.bad) → ∃ c ∈ u.t.lm.leases, c.line = pa / 128)) ∧
      (∀ r, 2 ^ 24 ≤ (t.src x + disp).toNat → (t.src x + disp).toNat < 2 ^ 48 →
        s.translate t.id.core t.id.ctx (t.src x + disp).toNat .r = .error r → exec (.pref g x disp) s =
        .next (if s.cached t.id.core t.id.ctx (t.src x + disp).toNat = none then s.count t.id.ctx 14 1 else s)))

/-! ## The engines -/

/-- R202, R203, R206, R208, R215: the ten engine syllables. A command that passes every check at fire joins the end of its queue
with the staging, fcr and fields of its issue, and its counter rises by its counted bytes at once; nothing else of the task's
registers, the scratchpad or memory changes. A check that fails traps, and a full queue, a busy index engine or a seventh
arrival holds the group back. -/
def Obligations.EngineCommandsFire : Prop :=
  ∀ (g : Guard) (n : Fin 16) (cw ret : Bool) (op : Fin 12) (tag : BitVec 16) (m : BitVec 8) (ss ds : Span) (s : State)
    (i : Instr) (c : Cmd),
    (i, c) ∈ [
      (Instr.cpy g n cw tag ss ds, s.capture .cpy n cw false 0 tag ss ds),
      (.cpya g n cw ret op tag ss, s.capture .cpya n cw ret op tag ss none),
      (.cpyp g n cw tag ds, s.capture .cpyp n cw false 0 tag none ds),
      (.cpyu g n cw tag ss, s.capture .cpyu n cw false 0 tag ss none),
      (.cpyl g n cw tag ss, s.capture .cpyl n cw false 0 tag ss none),
      (.cpyx g n cw op tag ss, s.capture .cpyx n cw false op tag ss none),
      (.sig g n cw tag, s.capture .sig n cw false 0 tag none none),
      (.ixst g n cw tag, s.capture .ixst n cw false 0 tag none none),
      (.ixend g n cw tag, s.capture .ixend n cw false 0 tag none none),
      (.marr g n cw m, s.capture .marr n cw false 0 (m.setWidth 16) none none)] →
    let t := s.t
    let index : Prop := c.op = .ixst ∨ c.op = .ixend
    let busy : Prop := ∃ x ∈ t.eng.cmds, x.held = false ∧ cmdPath x = 3
    let room : Prop := (c.op = .marr → t.pipe.marrs.length < 6) ∧ (t.eng.cmds.filter fun x => !x.held).length < 16 ∧
      (index → ¬busy)
    (∀ k : Fin 8, c.d.getD k.val 0 = t.dval k.val) ∧ c.ftz = t.ftz ∧ c.ord = t.pipe.ord ∧ c.ctr = n.val ∧ c.cw = cw ∧
    (Acts s i g → t.holds = false →
      (room → s.fireTrap c = none → s.counted c ≠ 0 → ∃ u, exec i s = .next u ∧
        (u.t.ctr n.val = (t.ctr n.val + s.counted c) % 2 ^ 32) ∧ (∀ k, k ≠ n.val → u.t.ctr k = t.ctr k) ∧
        (∃ r, u.t.eng.cmds.getLast? = some { c with held := false, counted := s.counted c, running := r }) ∧
        u.t.eng.cmds.length = t.eng.cmds.length + 1 ∧
        (∀ x ∈ t.eng.cmds, x.running = true → x ∈ u.t.eng.cmds ∨ ∃ y ∈ u.t.eng.cmds, y.ord = x.ord) ∧
        u.t.pipe.ord = t.pipe.ord + 1 ∧ u.t.pipe.pend = t.pipe.pend ∧ u.t.pipe.loads = t.pipe.loads ∧
        u.t.r = { t.r with w := u.t.r.w } ∧ u.t.lm = { t.lm with behind := u.t.lm.behind } ∧ u.t.ctl = t.ctl ∧ u.mem = s.mem ∧
        u.rest = s.rest) ∧
      (room → ∀ tr, s.fireTrap c = some tr → exec i s = .next (s.onT (·.raise tr))) ∧
      (c.op ≠ .marr → 16 ≤ (t.eng.cmds.filter fun x => !x.held).length →
        exec i s = .next (s.onT fun t => { t with pipe.grp.back := some .queue })) ∧
      (index → busy → exec i s = .next (s.onT fun t => { t with pipe.grp.back := some .queue })) ∧
      (c.op = .marr → 6 ≤ t.pipe.marrs.length → t.id.copies ≤ 1 →
        exec i s = .next (s.onT fun t => { t with pipe.grp.back := some .marr })))

/-- R204, R208, R209, R211: the fire-time checks of a copy, in their order: kinds, alignment, range; then the counted bytes and
the counter's overflow, 0x09. -/
def Obligations.CopyChecksAtFire : Prop :=
  ∀ (n : Fin 16) (tag : BitVec 16) (s : State),
    let t := s.t
    let c := s.capture .cpy n false false 0 tag none none
    let kind (k : Nat) : Nat := (t.dval k).toNat / 2 ^ 60
    let rows := (t.dval 2).toNat / 2 ^ 40
    let bytes := (t.dval 2).toNat % 2 ^ 40
    let fault (reason : Nat) : Trap :=
      { cause := 0x08, sub := 0, cls := 4, val := BitVec.ofNat 64 (tag.toNat * 2 ^ 48 + reason * 2 ^ 44), reason }
    let kinds : Prop := kind 0 ≤ 1 ∧ kind 1 ≤ 1
    let aligned : Prop := (∀ k ∈ [0, 1, 3, 4], (t.dval k).toNat % 4 = 0) ∧ bytes % 4 = 0
    let own (k : Nat) : Prop := (t.dval k).toNat + bytes ≤ t.usable
    (¬kinds → s.fireTrap c = some (fault 1)) ∧
    (kinds → ¬aligned → s.fireTrap c = some (fault 2)) ∧
    (kinds → aligned → rows = 1 → 0 < bytes → t.usable ≤ 2 ^ 24 → kind 1 = 0 → (t.dval 1).toNat < t.usable →
      t.usable < (t.dval 1).toNat + bytes → s.fireTrap c = some (fault 3)) ∧
    (aligned → rows = 1 → 0 < bytes → t.usable ≤ 2 ^ 24 → own 0 → own 1 → t.eng.natives = [] →
      s.counted c = bytes ∧
      (t.ctr n.val + bytes < 2 ^ 32 → bytes < 2 ^ 31 → s.fireTrap c = none) ∧
      (2 ^ 32 ≤ t.ctr n.val + bytes → s.fireTrap c =
        some { cause := 0x09, sub := 0, cls := 4, val := BitVec.ofNat 64 bytes, reason := 0 }))

/-- R205, R206, R211: one delivery of a running scratchpad copy of one row: the bytes of its next chunk reach the destination as
the source holds them, the counter falls by that many, and no other byte changes. R207, R210: a command whose every byte is
delivered completes: its completion word is stored, its flags are recorded, and its entry is free. Both come between two compute cycles, before its waits are
judged, on a core whose engines do not stand still (R73, R251, R372); the copy is one that no unordered write is near (R247).
Which chunk arrives when is the agenda's: log entry 6. -/
def Obligations.CopyRunsAndCompletes : Prop :=
  (∀ (core n : Nat) (p : CoreTask) (c : Cmd) (s : State), s.taskOn core = some p → p.eng.cmds[n]? = some c →
    let src := (c.d.getD 0 0).toNat + 256 * c.units
    let dst := (c.d.getD 1 0).toNat + 256 * c.units
    let bytes := (c.d.getD 2 0).toNat % 2 ^ 40
    let len := min 256 (bytes - 256 * c.units)
    s.delivering = true → p.held.sync = none → p.lm.undo = [] → p.lm.behind = [] → c.index = none →
    p.active = true → p.pipe.freeze = 0 → c.op = .cpy → c.ss = none → c.ds = none → c.pub = false → c.running = true →
    (c.d.getD 2 0).toNat / 2 ^ 40 = 1 → c.total = (bytes + 255) / 256 → c.units < c.total → c.tag.toNat < 2 ^ 15 →
    (c.d.getD 0 0).toNat + bytes ≤ p.usable → (c.d.getD 1 0).toNat + bytes ≤ p.usable → p.usable ≤ 2 ^ 24 →
    p.lm.bad = [] → (∀ x ∈ p.eng.cmds, x.ord = c.ord → x = c) →
    OnCore s (.chunkDelivery core n) core fun u q =>
      (∀ k < len, readByte q.lm.scratch (dst + k) = readByte p.lm.scratch (src + k)) ∧
      (∀ a, a < dst ∨ dst + len ≤ a → readByte q.lm.scratch a = readByte p.lm.scratch a) ∧
      q.ctr c.ctr = (p.ctr c.ctr + (2 ^ 32 - len)) % 2 ^ 32 ∧ (∀ k, k ≠ c.ctr → q.ctr k = p.ctr k) ∧
      (c.units + 1 < c.total → ∃ d, q.eng.cmds[n]? = some d ∧ d = { c with units := c.units + 1, bytes := c.bytes + len }) ∧
      (c.units + 1 = c.total → c.cw = false → ∀ x ∈ q.eng.cmds, x.ord ≠ c.ord) ∧
      q.r.s = p.r.s ∧ q.r.tiles = p.r.tiles ∧ q.r.acc = p.r.acc ∧ q.ctl = p.ctl ∧ u.mem = s.mem) ∧
  (∀ (core n : Nat) (p : CoreTask) (c : Cmd) (s : State), s.taskOn core = some p → p.eng.cmds[n]? = some c →
    let a := (c.d.getD 5 0).toNat
    s.delivering = true → p.held.sync = none →
    p.active = true → p.pipe.freeze = 0 → c.running = true → c.pub = false → (c.op = .cpy ∨ c.op = .cpya ∨ c.op = .ixst) →
    c.units = c.total → c.cw = true → a + 4 ≤ p.usable → p.usable ≤ 2 ^ 24 →
    OnCore s (.commandComplete core n) core fun u q =>
      readNat q.lm.scratch a 4 = (c.d.getD 6 0).toNat % 2 ^ 32 ∧
      (∀ x, x < a ∨ a + 4 ≤ x → readByte q.lm.scratch x = readByte p.lm.scratch x) ∧
      q.r = { p.r with fsr := p.r.fsr ||| c.flags } ∧ (∀ x ∈ q.eng.cmds, x.ord ≠ c.ord) ∧
      (∀ x ∈ p.eng.cmds, x.ord ≠ c.ord → ∃ y ∈ q.eng.cmds, y.ord = x.ord ∧ { y with running := x.running } = x) ∧
      q.ctl = p.ctl ∧ u.mem = s.mem)

/-- R317, R319, R321, R322: an arrival raises its milestone's count and its pending bytes; the last one with no byte pending
fires it, between two compute cycles and before its waits are judged (R251): one generation more, no arrival left, and every participant's word stored with four off its counter, on each core that takes
deliveries at that time (R73, R383). -/
def Obligations.MilestoneArrival : Prop :=
  ∀ (core n : Nat) (p : CoreTask) (c : Cmd) (s : State), s.taskOn core = some p → p.eng.cmds[n]? = some c →
    let k := 256 * p.id.ctx + c.tag.toNat % 256
    let m := s.mile k
    let a := (c.d.getD 5 0).toNat
    let d7 := (c.d.getD 7 0).toNat
    let expect := if d7 / 2 ^ 32 = 0 then p.id.cnt else d7 / 2 ^ 32
    let pend := m.pend + BitVec.ofNat 32 (d7 % 2 ^ 32)
    let mine : MArrival := { launch := p.id.launch, task := p.id.idx, addr := a, val := BitVec.ofNat 32 (c.d.getD 6 0).toNat, ctr := c.ctr }
    let all := m.list ++ [mine]
    s.delivering = true → p.active = true → p.pipe.freeze = 0 → p.held.sync = none → c.op = .marr → c.held = false → c.units = 0 → p.eng.cmds = [c] → n = 0 → c.faulted = false →
    (∀ q ∈ p.pipe.pend, (∀ x f r ad, q.eff ≠ .accst x f r ad) ∧ ∀ ad l, q.eff ≠ .planeBytes ad l) → p.eng.fences = [] →
    p.pipe.waits.contains (.meet .marr) = false → (∀ q ∈ s.tasks, ∀ x ∈ q.eng.cmds, x.pub = false) →
    m.err = 0 → (m.owner = none ∨ m.owner = some p.id.launch) → a + 4 ≤ 2 ^ 22 → 0 < expect →
      (m.arrived = 0 ∨ (m.expect = expect ∧ m.arrived < m.expect)) →
      (m.arrived + 1 < expect ∨ pend ≠ 0 → OnCore s (.milestoneArrival core n) core fun u q =>
        u.mile k = { m with
          owner := some p.id.launch, expect := expect, arrived := m.arrived + 1, pend := pend,
          list := all } ∧
        (∃ x, q.eng.cmds = [x] ∧ x.op = .marr ∧ x.units = 1 ∧ x.d = c.d ∧ x.ctr = c.ctr ∧ x.tag = c.tag) ∧
        q.lm.scratch = p.lm.scratch ∧ q.r = p.r ∧ ∀ j, j ≠ k → u.mile j = s.mile j) ∧
      (expect = 1 → pend = 0 → m.list = [] → (∀ q ∈ s.rest, q.id.launch ≠ p.id.launch ∨ q.id.idx ≠ p.id.idx) → p = s.t → ∃ u,
        exec (.milestoneArrival core n) s = .next u ∧ (u.mile k).gen = m.gen + 1 ∧ (u.mile k).arrived = 0 ∧
        readNat u.t.lm.scratch a 4 = (c.d.getD 6 0).toNat % 2 ^ 32 ∧
        (∀ x, x < a ∨ a + 4 ≤ x → readByte u.t.lm.scratch x = readByte p.lm.scratch x) ∧
        u.t.ctr c.ctr = (p.ctr c.ctr + (2 ^ 32 - 4)) % 2 ^ 32 ∧ u.t.eng.cmds = []) ∧
      (m.arrived + 1 = expect → pend = 0 → ∃ u, exec (.milestoneArrival core n) s = .next u ∧
        u.mile k = { m with owner := some p.id.launch, expect := expect, gen := m.gen + 1, arrived := 0, pend := 0, list := [] } ∧
        (∀ j, j ≠ k → u.mile j = s.mile j) ∧ u.tasks.map (·.id) = s.tasks.map (·.id) ∧
        ∀ e ∈ all, ∀ q ∈ s.tasks, q.id.launch = e.launch → q.id.idx = e.task → q.heldOff = false → e.addr + 4 ≤ 2 ^ 22 →
          (all.filter fun f => f.launch = e.launch && f.task = e.task) = [e] → ∃ v ∈ u.tasks, v.id = q.id ∧
          readNat v.lm.scratch e.addr 4 = e.val.toNat ∧ v.ctr e.ctr = (q.ctr e.ctr + (2 ^ 32 - 4)) % 2 ^ 32 ∧
          (∀ x, x < e.addr ∨ e.addr + 4 ≤ x → readByte v.lm.scratch x = readByte q.lm.scratch x) ∧ v.r = { q.r with w := v.r.w })

/-! ## Events of one core -/

/-- R70 to R73, R195, R252: a result due next becomes visible; a load's reply writes its register, or makes its task due for 0x0E;
the logical clock advances and ends the leases it passes; a walk that ends caches its leaf in the core's, the cluster's and the
die's cache.
A reply brings the value bound at issue: log entry 14; walks: log entry 12. -/
def Obligations.ResultsRepliesAndClocks : Prop :=
  ∀ (core : Nat) (p : CoreTask) (s : State), s.taskOn core = some p →
    (∀ d lvl x l v, p.pipe.pend = [d] → d.left = 1 → d.real ≤ 1 → d.eff = .sreg lvl (some x) (some l) v → lvl = p.level →
      p.active = true → p.pipe.freeze = 0 → p.pipe.loads = [] → p.lm.plane = [] →
      OnCore s (.resultVisible core) core fun u q =>
        q.sreg x = v ∧ q.latch l = v ∧ (∀ y, y ≠ x → q.sreg y = p.sreg y) ∧ (∀ k, k ≠ l → q.latch k = p.latch k) ∧
        q.pipe.pend = [] ∧ q.lm = p.lm ∧ u.mem = s.mem) ∧
    (∀ (l : Load) x v, p.pipe.loads = [l] → l.arrived = false → l.req.row = none → l.req.dst = some x → l.vals = [v] →
      l.req.signed = false → l.req.lvl = p.level → p.active = true → p.pipe.freeze = 0 → p.pipe.pend = [] →
      (l.bad = none → OnCore s (.loadReply core 0) core fun u q =>
        q.sreg x = BitVec.ofNat 64 v ∧ q.latch .ym = BitVec.ofNat 64 v ∧ q.pipe.loads = [] ∧
        (∀ y, y ≠ x → q.sreg y = p.sreg y) ∧ q.lm = p.lm ∧ u.mem = s.mem) ∧
      (∀ a, l.bad = some a → p.ctl.due = [] → OnCore s (.loadReply core 0) core fun _ q =>
        q.r = p.r ∧ q.ctl.due = [{ cause := 0x0E, sub := 0, cls := 0, val := BitVec.ofNat 64 a, reason := 0 }])) ∧
    OnCore s (.logicalClockTick core) core (fun u q => q.lm.clock = p.lm.clock + 1 ∧ q.r = p.r ∧ q.pipe = p.pipe ∧
      (∀ l ∈ p.lm.leases, l.last ≤ p.lm.clock → l ∉ q.lm.leases) ∧
      (∀ l ∈ p.lm.leases, p.lm.clock < l.last → l ∈ q.lm.leases) ∧ u.mem = s.mem) ∧
    (∀ (va : Word) (need : Need) leaf, 2 ^ 24 ≤ va.toNat → va.toNat < 2 ^ 48 → s.cached core p.id.ctx va.toNat = none →
      (s.ctx p.id.ctx).invBusy = false → s.walk p.id.ctx va.toNat need = .ok leaf → ∃ u,
      exec (.translationWalkComplete core va need) s = .next u ∧ leaf ∈ mget [] u.mem.tlbCore core ∧
      leaf ∈ mget [] u.mem.tlbCluster (core / 4) ∧ leaf ∈ mget [] u.mem.tlbDie (core / 96) ∧ u.mem.phys = s.mem.phys ∧
      u.tasks = s.tasks)

/-- R145, R146, R199, R200, R248, R257: the ends of waits. WAIT_SATISFIED clears the wait's predicate for the next group when it has a
timeout, in a cycle after the one that armed it (R246), and what the word tells of is in order from then on; WAIT_TIMEOUT, whose timeout is spent while the condition does not hold, sets it; WAITC_SATISFIED comes when a counter is at
its threshold, FENCE_WAIT_END when what a fence names is performed, which is in order from then on. Each of these events completes: from
every state with a waiting task that holds its one wait and its condition, between two compute cycles, exec answers the state in
which the task runs on with the next group.
When these ends come is the agenda's: log entry 6. A word in an uncorrectable sector satisfies nothing: log entry 46. -/
def Obligations.WaitsEnd : Prop :=
  ∀ (core next : Nat) (p : CoreTask) (s : State), s.taskOn core = some p → p.ctl.st = .waiting → p.pipe.freeze = 0 →
    s.between = true → p.pipe.grp.soft = none → p.pipe.grp.halting = false → p.id.ordered = false →
    (p.pipe.grp.xfer = some next ∨ (p.pipe.grp.xfer = none ∧ p.r.b.loops = [] ∧ p.pipe.grp.next = next)) →
    let wentOn (u : State) (q : CoreTask) : Prop := u.taskOn core = some q ∧ q.ctl.st = .running ∧ q.pipe.waits = [] ∧
      q.r.pc = next ∧ q.r.s = p.r.s ∧ (∀ j, q.pred j = p.pred j) ∧ q.r.w = p.r.w ∧
      q.lm = { p.lm with behind := q.lm.behind, plane := q.lm.plane } ∧ u.mem = s.mem ∧ ∀ k, k ≠ core → u.taskOn k = s.taskOn k
    let keeps (q : CoreTask) : Prop := q.pipe.pend = p.pipe.pend
    (∀ a cc v timed left k, p.pipe.waits = [.word a cc v timed left k] →
      (p.wordBad a = none → p.pipe.grp.cycle < p.pipe.cycle → waitCond cc (BitVec.ofNat 32 (readNat p.lm.scratch a 4)) v = true → ∃ u q,
        exec (.waitSatisfied core) s = .next u ∧ wentOn u q ∧ (timed = true → q.land.pred k = false) ∧ (timed = false → keeps q) ∧
        u.judged = s.now + 1 ∧ ∀ e ∈ q.lm.behind, (∀ b, (a, b) ∈ e.words → 0 ∉ e.readers ∧ 1 ∉ e.readers) ∧ (a, true) ∉ e.words) ∧
      (timed = true → left = 0 → waitCond cc (BitVec.ofNat 32 (readNat p.lm.scratch a 4)) v = false → ∃ u q,
        exec (.waitTimeout core) s = .next u ∧ wentOn u q ∧ q.land.pred k = true ∧ q.lm.behind = p.lm.behind)) ∧
    (∀ n thr, p.pipe.waits = [.ctr n thr] → p.ctr n ≤ thr → ∃ u q,
      exec (.waitcSatisfied core) s = .next u ∧ wentOn u q ∧ keeps q ∧ q.lm.behind = p.lm.behind) ∧
    (∀ a b ord, p.pipe.waits = [.fence a b ord] → p.performed a ord = true → ∃ u q,
      exec (.fenceWaitEnd core) s = .next u ∧ wentOn u q ∧ keeps q ∧ ∀ e ∈ q.lm.behind, e.ord ≤ ord → a.getLsbD e.path = true →
        ∀ r ∈ e.readers, b.getLsbD r = false) ∧
    (∀ ord, p.pipe.waits = [.rel ord] → p.performed 0x1F ord = true → (∀ q ∈ s.tasks, ∀ c ∈ q.eng.cmds, c.pub = false) → ∃ u q,
      exec (.fenceWaitEnd core) s = .next u ∧ wentOn u q ∧ keeps q) ∧
    (∀ ord, p.pipe.waits = [.wfence ord] → p.admitted ord = true →
      (∀ w ∈ p.eng.linkWins, w.1 < ord → w.2 ≤ s.deviceTime) → ∃ u q,
      exec (.fenceWaitEnd core) s = .next u ∧ wentOn u q ∧ keeps q ∧ q.lm.behind = p.lm.behind)

/-- R73, R309, R149, R310, R346, R352: the stops that fall before a task's next group. Each leaves xpc and the pc at that group with
bit 15 of xcause set; a freeze reports what it waits for, an interval its own length, a breakpoint its number with bit 32, a stop
request bit 33, and comes after a breakpoint that matches the group; a pre-emption stop is no fault. The effect of each of these events is its stop, and it completes so in every
state in which it is due.
Cause and xval of a pre-emption stop: log entry 17. -/
def Obligations.StopsBetweenGroups : Prop :=
  ∀ (core : Nat) (p : CoreTask) (s : State), s.taskOn core = some p → p.ctl.st = .running → p.ctl.due = [] →
    p.pipe.waits = [] → p.eng.natives = [] → s.dbg.trCtl.getLsbD 0 = false →
    let stopped (st : TaskSt) (cause v : Nat) (u : State) : Prop := ∃ q, u.taskOn core = some q ∧
      q.ctl.st = st ∧ q.r.xpc = BitVec.ofNat 64 p.r.pc ∧ q.r.pc = p.r.pc ∧ q.r.xcause = BitVec.ofNat 32 (2 ^ 15 + cause) ∧
      q.r.xval = BitVec.ofNat 64 v ∧ q.r.b.loops = p.r.b.loops ∧ q.r.calls = p.r.calls ∧ u.mem = s.mem ∧
      ∀ k, k ≠ core → u.taskOn k = s.taskOn k
    let calm : Prop := p.pipe.freeze < 2 ^ 20
    (2 ^ 20 ≤ p.pipe.freeze → ∃ u, exec (.freezeTimeout core) s = .next u ∧ stopped .faulted 0x0D p.freezeSource u) ∧
    (calm → p.code.interval ≤ p.pipe.interv → ∃ u,
      exec (.preemptionIntervalExceeded core) s = .next u ∧ stopped .faulted 0x13 p.code.interval u) ∧
    let clear : Prop := s.isTarget p = true → p.pipe.bpSkip = true ∨
      ∀ n < 4, bitOf (mget 0 s.dbg.bp n) 31 = true → (mget 0 s.dbg.bp n).toNat % 2 ^ 14 ≠ p.r.pc
    (calm → p.pipe.interv < p.code.interval →
      (∀ n, (s.isTarget p && p.pipe.hold == 0 && !p.pipe.bpSkip) = true →
        (List.range 4).find? (fun n => bitOf (mget 0 s.dbg.bp n) 31 && (mget 0 s.dbg.bp n).toNat % 2 ^ 14 == p.r.pc) = some n →
        ∃ u, exec (.addressBreakpoint core) s = .next u ∧ stopped .faulted 0x10 (2 ^ 32 + n) u) ∧
      (clear → p.pipe.hold = 0 →
        (p.ctl.dbgReq = true → ∃ u, exec (.debugStop core) s = .next u ∧ stopped .faulted 0x10 (2 ^ 33) u) ∧
        (p.ctl.dbgReq = false → p.ctl.stopReq = true → p.pipe.ppoint = true → ∃ u,
          exec (.preemptionStop core) s = .next u ∧ stopped .stopping 0 0 u)))

/-- R225, R226, R230 to R232: a native call. One whose listing runs to its end completes: it leaves the queue, the registers of its
footprint hold what the listing left there and no other changes, its flags are recorded
and, asynchronous, it takes one off its counter. Handed over at entry, it becomes a routine level of the caller with its definition
to run from its first group and the footprint that the call found, the asynchronous caller's own fcr and fm kept beside.
What the unit does beside its listing: log entry 18. -/
def Obligations.NativeCalls : Prop :=
  ∀ (core : Nat) (p : CoreTask) (c : NativeCall) (r : Routine) (s : State), s.taskOn core = some p →
    p.eng.natives = [c] → p.routineOf c.idx = some r → p.handedOver = false → p.stands = false → p.pipe.pend = [] → p.pipe.loads = [] →
    (∀ u, p.active = true → p.pipe.waits = [] ∨ p.pipe.waits = [.native] → State.unitWhole (s.switchTo core) c r = some u → ∃ v q,
      exec (.nativeCallComplete core) s = .next v ∧ v.taskOn core = some q ∧ q.eng.natives = [] ∧ q.pipe = p.pipe ∧ q.r.s = p.r.s ∧
        q.r.frames = p.r.frames ∧ q.r.tiles = p.r.tiles ∧ q.r.fcr = p.r.fcr ∧ q.r.fm = p.r.fm ∧
        q.r.fsr = (if c.ctr = none then u.t.r.fsr ||| c.late else p.r.fsr ||| u.t.r.fsr) ∧
        (c.unit ≠ .pmmBlk → q.r.h = u.t.r.h ∧ q.r.acc = p.r.acc ∧ q.r.accExp = p.r.accExp) ∧
        (c.unit = .pmmBlk → q.r.h = p.r.h ∧ (∀ k < 1024, mget 0 q.r.acc k = mget 0 u.t.r.acc k) ∧
          ∀ k, 1024 ≤ k → mget 0 q.r.acc k = mget 0 p.r.acc k) ∧
        q.lm = { p.lm with planeMark := q.lm.planeMark } ∧
        (∀ n, c.ctr = some n → q.ctr n = (p.ctr n + (2 ^ 32 - 1)) % 2 ^ 32) ∧ (∀ k, c.ctr ≠ some k → q.ctr k = p.ctr k)) ∧
    (∀ n, c.ctr = some n → p.pipe.waits = [] → p.ctl.st = .running → s.dbg.trCtl.getLsbD 1 = false → c.pend = [] → c.loads = [] →
      p.lm.plane = [] → p.lm.undo = [] →
      ∃ u q fr, exec (.nativeHandover core 0) s = .next u ∧ u.taskOn core = some q ∧ q.r.frames = fr :: p.r.frames ∧
        fr.idx = c.idx ∧ fr.ret = p.r.pc ∧ fr.bank = p.r.b ∧ fr.async = some n ∧ fr.saved = some (p.r.fcr, p.r.fm) ∧
        fr.ranges = c.ranges ∧ q.eng.natives = [] ∧ q.r.fcr = c.fcr ∧ q.r.fm = c.fm ∧ q.r.fsr = p.r.fsr ∧
        (c.unit ≠ .pmmBlk → q.r.h = c.regs.h ∧ q.r.acc = p.r.acc) ∧
        (c.unit = .pmmBlk → q.r.h = p.r.h ∧ (∀ k < 1024, mget 0 q.r.acc k = mget 0 c.regs.acc k) ∧
          ∀ k, 1024 ≤ k → mget 0 q.r.acc k = mget 0 p.r.acc k) ∧
        q.code.lat = r.lat ∧ q.ctl.st = .running ∧ q.pipe.waits = [] ∧ q.r.w = p.r.w ∧
        q.lm = { p.lm with planeMark := q.lm.planeMark } ∧ u.mem = s.mem)

/-- R364, R368 to R370, R372: releases of a replicated task. When the meeting of a pair times out with its partner missing, the
replica that came stops with 0x11; when both came with one signature each goes on with an empty held set and one release more,
and the lead's held bytes are in memory; a resynchronised replica takes over the lead's registers and scratchpad.
The resynchronisation's details: log entry 30. -/
def Obligations.ReplicatedReleases : Prop :=
  (∀ (core n : Nat) (k : Release) (s : State), let p := s.t
     p.id.core = core → p.id.copies = 2 → p.held.meet = some (n, k) → 2 ^ 20 ≤ p.held.meetAge →
     p.pipe.waits = [.meet .rel] →
     ((∀ q ∈ s.rest, State.replicas p q = true → q.held.meet = none) → ∃ u,
       exec (.releaseMeetingTimeout core) s = .next u ∧ u.t.ctl.st = .faulted ∧ u.t.r.xcause.toNat % 256 = 0x11 ∧
       u.t.r.xval = BitVec.ofNat 64 (p.held.releases * 2 ^ 32 + releaseCode k * 2 ^ 8 + 3) ∧
       u.t.r.xpc = BitVec.ofNat 64 p.pipe.grp.start ∧ u.t.held.sectors = p.held.sectors ∧ u.mem = s.mem) ∧
     (∀ q m j, s.rest = [q] → State.replicas p q = true → q.held.meet = some (m, j) → q.held.sigLo = p.held.sigLo →
       q.held.sigHi = p.held.sigHi → p.id.replica < q.id.replica → q.id.core ≠ core → ∃ u,
       exec (.releaseMeetingTimeout core) s = .next u ∧
       (∀ v ∈ u.tasks, v.held.sectors = [] ∧ v.held.meet = none ∧ v.held.meetAge = 0) ∧
       u.t.held.releases = p.held.releases + 1 ∧ u.t.r = p.r ∧ u.t.pipe.waits = [.rel p.pipe.ord] ∧
       (∀ a e pa, p.held.sectors = [(a, e)] → s.agentPa p.id.ctx (32 * a) .w = some pa → pa % 32 = 0 → ∀ b < 32,
         u.physByte (s.keyOf p.id.ctx) (pa + b) = if e.mask.getLsbD b then BitVec.ofNat 8 (e.data.toNat / 2 ^ (8 * b))
           else s.physByte (s.keyOf p.id.ctx) (pa + b)))) ∧
  (∀ (core lead : Nat) (m l : CoreTask) (s : State), s.taskOn core = some m → s.taskOn lead = some l → core ≠ lead →
     m.held.sync = some (lead, true) → l.pipe.loads = [] → State.replicas l m = true → ∃ u v,
     exec (.resyncComplete core) s = .next u ∧ u.taskOn core = some v ∧ v.id = m.id ∧ v.r = l.r ∧
     v.lm.scratch = l.lm.scratch ∧ v.pipe.pend = l.pipe.pend ∧ v.ctl.st = l.ctl.st ∧ v.held.sync = none ∧
     v.held.sectors = l.held.sectors ∧ (∀ w ∈ u.tasks, State.replicas l w = true → w.held.sync = none) ∧ u.mem = s.mem)

/-- R377, R378: the oldest task of an ordered launch. Halted, it commits: its held set is published and it is the next task's turn.
Stalled on a full held set, it publishes and goes on. A younger task does neither. -/
def Obligations.OrderedCommits : Prop :=
  ∀ (core : Nat) (l : Launch) (s : State), let p := s.t
    p.id.core = core → p.id.ordered = true → s.launchOf p.id.launch = some l →
    (l.nextCommit = p.id.idx → p.eng.cmds = [] → l.log = none →
      (p.ctl.st = .halted → p.held.committed = false → p.id.idx < p.id.cnt →
        (∀ q ∈ s.tasks, ∀ c ∈ q.eng.cmds, c.pub = false) → (∀ q ∈ s.tasks, q.id.launch = p.id.launch → q = p) →
        ∃ u m, exec (.orderedCommit core) s = .next u ∧ u.t.held.committed = true ∧ u.t.held.sectors = [] ∧ u.t.r = p.r ∧
          u.launchOf p.id.launch = some m ∧ m.commits = l.commits + 1 ∧
          (∀ a e pa, p.held.sectors = [(a, e)] → s.agentPa p.id.ctx (32 * a) .w = some pa → pa % 32 = 0 → ∀ b < 32,
            u.physByte (s.keyOf p.id.ctx) (pa + b) = if e.mask.getLsbD b then BitVec.ofNat 8 (e.data.toNat / 2 ^ (8 * b))
              else s.physByte (s.keyOf p.id.ctx) (pa + b))) ∧
      (p.pipe.grp.back = some .heldSet → (∀ q ∈ s.tasks, ∀ c ∈ q.eng.cmds, c.pub = false) → ∃ u, exec (.orderedEarlyPublication core) s = .next u ∧
        u.t.held.sectors = [] ∧ u.t.pipe.grp.back = none ∧ u.t.held.committed = p.held.committed ∧ u.t.r = p.r)) ∧
    (l.nextCommit ≠ p.id.idx →
      exec (.orderedCommit core) s = .next s ∧ exec (.orderedEarlyPublication core) s = .next s)

/-! ## Queues and launches -/

/-- R280 to R283, R287, R289: the host's seal, and what the executive does with the head record of a queue it may parse. Every
record gives its slot back; a signal is written and a fence done when no launch of the queue is open, and wait otherwise; the end of a
capture writes its 72 bytes, the cycles and the eight counters since its start, and no other byte as the context reads it; a
reserved byte that is not zero is error 2, an opcode the executive does not know error 1.
The order of a record's checks: log entry 11. That Q_DONESEQ takes a record's sequence when its slot is given back: log entry 20.
That the seal of the head slot arms its queue: log entry 59. -/
def Obligations.QueueRecords : Prop :=
  ∀ (q : Fin 64) (slot : Fin 16) (x : Nat) (s : State),
    let pos := s.slotPos q.val (s.queue q.val).head
    let r := s.headRecord q.val
    let fr := s.freeSlot q.val
    let f (k n : Nat) : Nat := readNat s.mem.hdm (pos + k) n
    let opens : Prop := ∃ l ∈ s.exe.launches, l.q = q.val
    let parsed (u : State) : Prop := readByte u.mem.hdm (pos + 255) = 0 ∧
      (∀ a, a ≠ pos + 255 → readByte u.mem.hdm a = readByte s.mem.hdm a) ∧
      (u.queue q.val).head = ((s.queue q.val).head + 1) % 16 ∧ (∀ k, k ≠ q.val → u.queue k = s.queue k) ∧
      u.tasks = s.tasks ∧ u.exe.launches = s.exe.launches
    let done (u : State) : Prop := parsed u ∧ (u.queue q.val).doneSeq = BitVec.ofNat 32 (f 4 4) ∧
      (u.queue q.val).record = [] ∧ (u.queue q.val).frames = 0 ∧
      (u.queue q.val).st =
        if readByte u.mem.hdm (s.slotPos q.val (u.queue q.val).head + 255) = 0xA5 then .armed else .idle
    let holds (st : QueueSt) (u : State) : Prop := parsed u ∧ (u.queue q.val).st = st ∧ (u.queue q.val).record = r
    let fails (e : BitVec 3) (u : State) : Prop := parsed u ∧ (u.queue q.val).st = .error ∧ (u.queue q.val).err = e ∧
      (u.queue q.val).errSeq = BitVec.ofNat 32 (f 4 4)
    let runs (i : Instr) (p : State → Prop) : Prop := ∃ u, exec i s = .next u ∧ p u
    let at_ (op flags : Nat) (named : List (Nat × Nat)) : Prop := f 0 1 = op ∧ State.plain r flags named = true
    (s.serving = true → runs (.seal q slot) fun u => readByte u.mem.hdm (s.slotPos q.val slot.val + 255) = 0xA5 ∧
      (s.md.gated = false → s.queueCtx q.val = some x → (s.ctx x).st ≠ .resetting → (s.ctx x).st ≠ .destroyed →
        (s.queue q.val).st = .idle →
        (s.queue q.val).head = slot.val → (u.queue q.val).st = .armed) ∧
      (s.md.gated = true → u.md.waking = true ∧ u.exe.wake.getLsbD q.val = true)) ∧
    (s.canParse q.val = some x → mget 0 s.exe.torn (16 * q.val + (s.queue q.val).head) = 0 →
      (at_ 7 0 [] → runs (.nopRecord q) done) ∧
      (f 0 1 = 7 → State.plain r 0 [] = false → runs (.nopRecord q) (fails 2)) ∧
      (f 0 1 = 0 ∨ 7 < f 0 1 → runs (.unknownOpcodeRecord q) (fails 1)) ∧
      (at_ 6 0 [] → runs (.fenceRecord q) fun u => (opens → holds .waiting u) ∧ (¬opens → done u)) ∧
      (at_ 3 1 [(8, 16)] → f 8 8 % 8 = 0 → fr.mapped x (f 8 8) 8 .r = true → runs (.waitRecord q) (holds .parked)) ∧
      (at_ 2 0 [(8, 16)] → f 8 8 % 8 = 0 → fr.mapped x (f 8 8) 8 .w = true → runs (.signalRecord q) fun u =>
        (opens → holds .waiting u ∧ u.mem.phys = s.mem.phys) ∧
        (¬opens → done u ∧ ∀ pa, fr.agentPa x (f 8 8) .w = some pa → pa % 8 = 0 → ∀ k < 8,
          (u.physByte (s.keyOf x) (pa + k)).toNat = f 16 8 / 2 ^ (8 * k) % 256)) ∧
      (at_ 4 0 [(8, 16)] → f 8 8 % 64 = 0 → (∀ k < 8, f (16 + k) 1 ≤ 19) → fr.mapped x (f 8 8) 72 .w = true →
        runs (.captureStart q) fun u => done u ∧ ∃ vals, (u.queue q.val).capture =
          some (f 8 8 :: (List.range 8).map (fun k => f (16 + k) 1), mget 0 (s.ctx x).counters 20 :: vals) ∧
          ∀ k < 8, vals.getD k 0 = mget 0 (s.ctx x).counters (f (16 + k) 1)) ∧
      (∀ addr nums base, at_ 5 0 [] → (s.queue q.val).capture = some (addr :: nums, base) → addr % 64 = 0 → nums.length = 8 →
        base.length = 9 → fr.mapped x addr 72 .w = true → runs (.captureStop q) fun u => done u ∧ (u.queue q.val).capture = none ∧
          (∀ j < 9, ∀ k < 8, ∀ pa, fr.agentPa x (addr + 8 * j + k) .w = some pa →
            (u.physByte (s.keyOf x) pa).toNat =
              (mget 0 (s.ctx x).counters ((20 :: nums).getD j 0) - base.getD j 0).toNat / 2 ^ (8 * k) % 256) ∧
          ∀ pa, (∀ k < 72, fr.agentPa x (addr + k) .w ≠ some pa) → u.physByte (s.keyOf x) pa = s.physByte (s.keyOf x) pa)) ∧
    (s.liveCtx q.val = some x → (s.queue q.val).st = .parked → s.md.gated = false →
      let rec_ := (s.queue q.val).record
      ∀ w, s.agentNat x (byteField rec_ 8 8) 8 = some w → byteField rec_ 1 1 % 2 = 0 →
        (w = byteField rec_ 16 8 → runs (.parkedWaitPoll q) fun u =>
          (u.queue q.val).doneSeq = BitVec.ofNat 32 (byteField rec_ 4 4) ∧ (u.queue q.val).record = [] ∧ u.mem = s.mem) ∧
        (w ≠ byteField rec_ 16 8 → exec (.parkedWaitPoll q) s = .next s))

/-- R281 to R284, R286, R288, R298, R304 to R306, R264: a launch from its record to its completion. A checked record whose image is verified
opens a launch in placing; a frame, on a multiple of 1,024 ns, counts and ages the queues, and places a launch of one group that alone
asks: its context becomes resident, each replica takes the lowest free cluster of a die of its own, its save slots stand one after the
other, and its cores are loaded with its text, those of no task halted; a loaded round gets the next such multiple as
its strobe; before the first cycle at or above the strobe its tasks run; a launch whose every group has retired writes its signal and ends,
while the module is not gated (R23).
The order of the executive's steps: log entries 6 and 9. Which of the clusters and places that are free a launch takes: log entry 20.
That a stall bit is set at each such event: log entry 59. -/
def Obligations.LaunchLifeCycle : Prop :=
  (∀ (q : Fin 64) (x : Nat) (im : Image) (s v : State),
     let r := s.headRecord q.val
     let t := s.freeSlot q.val
     s.canParse q.val = some x → byteField r 0 1 = 1 → State.checkLaunch x r t = none →
     t.imageVerdict x (byteField r 8 8) (byteField r 24 8) = some (.ok im, v) → im.ordered = false → im.params = 0 →
     State.saveNeed (v.newLaunch q.val x r im) ≤ (v.ctx x).cSaveLen.toNat → ∃ u l, exec (.launchRecord q) s = .next u ∧
       u.exe.launches = v.exe.launches ++ [l] ∧ l.id = v.exe.nextLaunch ∧ u.exe.nextLaunch = l.id + 1 ∧ l.ctx = x ∧
       l.q = q.val ∧ l.seq = BitVec.ofNat 32 (byteField r 4 4) ∧ l.cnt = byteField r 16 3 ∧ l.img = im ∧ l.st = .placing ∧
       l.params = BitVec.ofNat 64 (byteField r 24 8) ∧ (∀ g ∈ l.groups, g.st = .unplaced) ∧
       (u.queue q.val).st = .placing ∧ u.tasks = v.tasks) ∧
  (∀ (s : State), s.serving = true →
     (s.deviceTime % 1024 ≠ 0 → exec .roundaboutFrame s = .next s) ∧
     (s.deviceTime % 1024 = 0 → s.md.gated = true → exec .roundaboutFrame s = .next { s with exe.frame := s.exe.frame + 1 }) ∧
     (s.deviceTime % 1024 = 0 → s.md.gated = false → s.exe.deferred = [] → s.exe.launches = [] → (∀ x < 64, (s.ctx x).st ≠ .resident) → (∀ q < 64, (s.queue q).st ≠ .placing) →
       ∃ u, exec .roundaboutFrame s = .next u ∧ u.exe.frame = s.exe.frame + 1 ∧ u.exe.deferred = [] ∧ u.agenda = s.agenda ∧
         (∀ q, (u.queue q).frames = if (s.queue q).st = .parked ∨ (s.queue q).st = .waiting ∨ (s.queue q).st = .placing
           then (s.queue q).frames + 1 else (s.queue q).frames) ∧ u.tasks = s.tasks ∧ u.mem = s.mem)) ∧
  (∀ (l : Launch) (s : State), let c := s.ctx l.ctx
     let n := l.img.groupSize
     s.serving = true → s.deviceTime % 1024 = 0 → s.md.gated = false → s.exe.deferred = [] → s.exe.launches = [l] →
     (∀ x < 64, (s.ctx x).st ≠ .resident) → (∀ x, (s.ctx x).clusters = []) → (∀ q < 64, (s.queue q).record = []) →
     s.md.failed = [] → s.md.lost = [] → s.md.retired = [] → l.ctx < 64 → l.q < 64 → c.st = .configured → c.evict = false →
     l.st = .placing → l.held = false → l.serial = false → l.placedOnce = false → l.save = [] → l.stamps = none → l.log = none →
     l.img.ordered = false → l.img.relocs = [] → 1 ≤ n → n ≤ 4 → 1 ≤ l.copies → l.copies ≤ 3 → 1 ≤ l.cnt → l.cnt ≤ n →
     l.groups = (List.range l.copies).map (fun k => { idx := 0, replica := k, cluster := 0, st := .unplaced, first := none }) →
     l.copies ≤ c.cPart.toNat % 256 → c.cPart.toNat / 256 ≤ c.cPart.toNat % 256 →
     c.cPart.toNat % 256 ≤ 192 → l.cnt * l.copies * State.slotTotal l ≤ c.cSaveLen.toNat → ∃ u m,
       exec .roundaboutFrame s = .next u ∧ u.launchOf l.id = some m ∧ m.placedOnce = true ∧ m.vals = [] ∧
       m.save = (List.range (l.cnt * l.copies)).map (· * State.slotTotal l) ∧
       m.groups = (List.range l.copies).map (fun k =>
         { idx := 0, replica := k, cluster := 24 * k, st := .placing, first := some 0 }) ∧
       (u.ctx l.ctx).st = .resident ∧ (∀ k < l.copies, 24 * k ∈ (u.ctx l.ctx).clusters) ∧ (u.queue l.q).age = 0 ∧
       (u.queue l.q).short = false ∧ u.mem.phys = s.mem.phys ∧
       ∀ k < l.copies, ∀ j < n, ∃ p, u.taskOn (96 * k + j) = some p ∧ p.id.launch = l.id ∧ p.id.ctx = l.ctx ∧ p.id.idx = j ∧
         p.id.replica = k ∧ p.id.cidBase = j ∧ p.ctl.st = (if l.cnt ≤ j then .halted else .loaded) ∧ p.r.pc = 0 ∧
         ∀ i < l.img.text.length, mget 0 p.code.imem i = l.img.text.getD i 0) ∧
  (∀ (id : Nat) (l : Launch) (s : State), s.launchOf id = some l → (∃ g ∈ l.groups, g.st = .placing) → ∃ u m ts,
     exec (.roundLoaded id) s = .next u ∧ u.launchOf id = some m ∧ m.strobe = some ts ∧ ts % 1024 = 0 ∧
     s.deviceTime < ts ∧ ts ≤ s.deviceTime + 1024 ∧ (∀ g ∈ m.groups, g.st ≠ .placing) ∧ m.groups.length = l.groups.length) ∧
  (∀ (id ts : Nat) (l : Launch) (s : State), s.launchOf id = some l → l.strobe = some ts →
     (s.nextTime < ts → exec (.releaseStrobe id) s = .next s) ∧
     (ts ≤ s.nextTime → (∀ p ∈ s.tasks, s.now ≤ p.pipe.seen) →
     (∃ g ∈ l.groups, g.st = .loaded) → s.t.id.launch = id → s.t.ctl.st = .released → s.t.pipe.kept = none → s.t.pipe.loads = [] →
     s.dbg.trCtl = 0 → (∀ p ∈ s.rest, p.id.launch ≠ id) → ∃ u m, exec (.releaseStrobe id) s = .next u ∧
     u.t.ctl.st = .running ∧ u.t.r = s.t.r ∧ u.launchOf id = some m ∧ m.strobe = none ∧ m.start = l.start.or (some ts) ∧
     (∀ g ∈ m.groups, g.st ≠ .loaded) ∧ (l.st = .placing → m.st = .running) ∧ u.rest = s.rest)) ∧
  (∀ (id : Nat) (l : Launch) (s : State), s.md.gated = false → s.launchOf id = some l → l.st = .draining → (∀ g ∈ l.groups, g.st = .retired) →
     l.joinBy ≤ s.deviceTime → l.img.ordered = false → l.digests = none → l.held = false → (s.queue l.q).st = .draining →
     (s.queue l.q).record = [] → l.id = id → (∀ a v, l.sig = some (a, v) → s.mapped l.ctx a 8 .w = true ∧ a % 8 = 0) → ∃ u,
     exec (.launchCompletion id) s = .next u ∧ u.launchOf id = none ∧ (u.queue l.q).doneSeq = l.seq ∧
     (∀ a v pa, l.sig = some (a, v) → s.agentPa l.ctx a .w = some pa → pa % 8 = 0 → ∀ k < 8,
       (u.physByte (s.keyOf l.ctx) (pa + k)).toNat = v.toNat / 2 ^ (8 * k) % 256)) ∧
  (∀ (q : Fin 64) (s : State),
     let c := s.queue q.val
     (s.md.gated = false → c.st = .parked ∨ c.st = .waiting ∨ c.st = .placing → c.stallCfg ≠ 0 → c.stallCfg.toNat ≤ c.frames → ∃ u,
       exec (.queueStallTimeout q) s = .next u ∧ u.queue q.val = { c with stall := true } ∧
       (∀ k, k ≠ q.val → u.queue k = s.queue k) ∧ u.tasks = s.tasks ∧ u.mem = s.mem) ∧
     (s.md.gated = true ∨ c.stallCfg = 0 ∨ c.frames < c.stallCfg.toNat → exec (.queueStallTimeout q) s = .next s))

/-- R282, R283, R286, R288, R290: the queue registers as a master that may write them uses them: skip drops the failing record, flush
clears every seal, both in the first frame after wake where the module is gated; a base priority of 7 is the owner's alone, and
a stall clears by writing 1. Another master changes nothing.
That a gated module defers skip and flush to its first frame after wake: log entry 28. That a flush leaves the open launches of the
queue running: log entry 25. -/
def Obligations.QueueControl : Prop :=
  ∀ (m : Master) (q : Fin 64) (v : BitVec 32) (s : State),
    let c := s.queue q.val
    let turns (i : Instr) (p : State → Prop) : Prop := ∃ u, exec i s = .next u ∧ p u ∧
      (∀ k, k ≠ q.val → u.queue k = s.queue k) ∧ u.tasks = s.tasks ∧ u.exe.launches = s.exe.launches ∧ u.mem.phys = s.mem.phys
    (s.mayQueue m q.val = true → s.md.gated = true →
      exec (.skip m q) s = .next { s with exe.deferred := s.exe.deferred ++ [.skip q.val] } ∧
      exec (.flush m q) s = .next { s with exe.deferred := s.exe.deferred ++ [.flush q.val] }) ∧
    (s.mayQueue m q.val = true → s.md.gated = false →
      (c.st = .error → c.record = [] → (∀ l ∈ s.exe.launches, l.q ≠ q.val) → turns (.skip m q) fun u => u.queue q.val =
        { c with st := if s.sealed q.val c.head then .armed else .idle, err := 0, frames := 0 }) ∧
      turns (.flush m q) (fun u => (∀ j < 16, u.sealed q.val j = false) ∧ (u.queue q.val).st = .idle ∧
        (u.queue q.val).err = 0 ∧ (u.queue q.val).head = 0 ∧ (u.queue q.val).record = [])) ∧
    (s.mayQueue m q.val = true →
      turns (.qPrio m q v) (fun u => u.queue q.val =
        { c with prio := if v.toNat % 8 = 7 ∧ s.isOwner m = false then 6 else v.toNat % 8, age := 0 }) ∧
      (v.getLsbD 0 = true → turns (.qStallclr m q v) fun u => u.queue q.val = { c with stall := false }) ∧
      (v.getLsbD 0 = false → exec (.qStallclr m q v) s = .next s)) ∧
    (s.mayQueue m q.val = false → ∀ i ∈ [Instr.skip m q, .flush m q, .qPrio m q v, .qStallclr m q v], exec i s = .next s)

/-! ## Contexts -/

/-- R268, R271 to R273: configure, destroy, resume, kill, resize and reset as the owner gives them to a module that serves and is
not gated; a command in the wrong state has result 1 and no other effect. A gated module keeps them for its next frame (R23), and a
master that does not own the module is counted (R27).
The order of a command's checks: log entry 11. When and under whose ownership a command kept while gated acts: log entry 28. -/
def Obligations.ContextCommands : Prop :=
  ∀ (m : Master) (x : Fin 64) (s : State),
    let c := s.ctx x.val
    let does (i : Instr) (p : State → Ctx → Prop) : Prop := ∃ u, exec i s = .next u ∧ p u (u.ctx x.val)
    let wrong (i : Instr) : Prop := does i fun u d => d = { c with result := 1 } ∧ u.tasks = s.tasks ∧ u.mem = s.mem
    let resettable : Prop := c.st = .configured ∨ c.st = .resident ∨ c.st = .saved ∨ c.st = .faulted
    (s.serving = true → s.isOwner m = true → s.md.gated = false →
      (c.st = .free → s.configureFault x.val = 0 → does (.configure m x) fun u d =>
        d.st = .configured ∧ d.result = 0 ∧ d.key = 0 ∧ mget 0 u.md.keys x.val = c.key ∧ d.cFunc = c.func ∧ d.cPart = c.part ∧
        d.cPtroot = c.ptroot ∧ d.cQueues = c.queues ∧ d.cSaveBase = c.saveBase ∧ d.cSaveLen = c.saveLen ∧
        d.cSlices = c.slices ∧ d.cache = [] ∧ u.tasks = s.tasks) ∧
      (c.st = .free → (16 < c.func.toNat ∨ c.ptroot.toNat % 2 ^ 12 ≠ 0 ∨ c.slices = 0) → does (.configure m x) fun _ d =>
        d = { c with result := 2 }) ∧
      (c.st ≠ .free → wrong (.configure m x)) ∧
      (resettable → does (.destroy m x) (fun u d => d.st = .destroyed ∧ d.pend = true ∧ d.result = 0 ∧
          (∀ l ∈ u.exe.launches, l.ctx ≠ x.val)) ∧
        does (.reset m x) fun u d => d.st = .resetting ∧ d.pend = true ∧ d.result = 0 ∧
          (∀ l ∈ u.exe.launches, l.ctx ≠ x.val)) ∧
      (c.st = .free ∨ c.st = .destroyed → wrong (.destroy m x) ∧ wrong (.reset m x)) ∧
      (c.st = .faulted →
        does (.resume m x) (fun u d => d.st = .resident ∧ d.fault = 0 ∧ d.result = 0 ∧
          ∀ l ∈ u.exe.launches, l.ctx = x.val → l.held = false) ∧
        does (.kill m x) fun u d => d.fault = 0 ∧ d.result = 0 ∧
          ((∃ l ∈ u.exe.launches, l.ctx = x.val) → d.st = .resident) ∧ ((∀ l ∈ u.exe.launches, l.ctx ≠ x.val) → d.st = .configured) ∧
          ∀ l ∈ u.exe.launches, l.ctx = x.val → l.held = false) ∧
      (c.st ≠ .faulted → wrong (.resume m x) ∧ wrong (.kill m x)) ∧
      (c.st = .resident ∨ c.st = .saved →
        (State.partOk c.part = true → s.exe.launches = [] → does (.resize m x) fun u d => d.cPart = c.part ∧ d.result = 0 ∧
          (c.st = .resident → d.clusters.length ≤ c.part.toNat % 256) ∧ u.tasks = s.tasks) ∧
        (State.partOk c.part = false → does (.resize m x) fun _ d => d = { c with result := 2 })) ∧
      (c.st ≠ .resident → c.st ≠ .saved → wrong (.resize m x))) ∧
    (∀ i d, (i, d) ∈ [(Instr.configure m x, Deferred.configure x.val), (.destroy m x, .destroy x.val), (.resume m x, .resume x.val),
        (.kill m x, .kill x.val), (.resize m x, .resize x.val), (.reset m x, .reset x.val)] →
      (s.serving = true → s.isOwner m = true → s.md.gated = true →
        exec i s = .next { s with exe.deferred := s.exe.deferred ++ [d] }) ∧
      (s.serving = true → s.isOwner m = false →
        exec i s = .next { s with md.own.denied := min 255 (s.md.own.denied + 1) }) ∧
      (s.serving = false → exec i s = .next s))

/-- R273, R276, R360: the ends of resets. A scrub leaves a reset context configured with no cluster, its cores empty, its slices
blank and its queues idle; a destroyed one is free, its key zero and its resources released. A function-level reset is kept for the
next frame, which starts a reset of every context of its function that may be reset, and of no other.
What a queue keeps at a reset: log entry 25. -/
def Obligations.ResetsComplete : Prop :=
  (∀ (x : Fin 64) (s : State),
     let c := s.ctx x.val
     let clean (u : State) : Prop := (u.ctx x.val).pend = false ∧ (u.ctx x.val).clusters = [] ∧ (u.ctx x.val).fault = 0 ∧
       (∀ p ∈ u.tasks, c.clusters.contains (p.id.core / 4) = true → p.id.launch = 0 ∧ p.lm.scratch = [] ∧ p.r = (CoreTask.empty 0).r) ∧
       (∀ k a, c.cSlices.getLsbD k = true → a < 0x300000 → readByte u.mem.slices (k * 0x300000 + a) = 0) ∧
       (∀ q < 64, c.cQueues.getLsbD q = true → u.queue q = Queue.idle ∧ ∀ j < 16, u.sealed q j = false) ∧
       (∀ core, ∀ l ∈ mget [] u.mem.tlbCore core, l.ctx ≠ x.val)
     s.md.gated = false →
     (c.st = .resetting → c.destroyRec = false → ∃ u, exec (.contextScrubComplete x) s = .next u ∧ clean u ∧
       (u.ctx x.val).st = .configured) ∧
     (c.st = .destroyed → ∃ u, exec (.contextScrubComplete x) s = .next u ∧ clean u ∧ (u.ctx x.val).st = .free ∧
       mget 0 u.md.keys x.val = 0 ∧ (u.ctx x.val).cQueues = 0 ∧ (u.ctx x.val).cSlices = 0 ∧
       ∀ k < 256, mget 0 u.net.routes (256 * x.val + k) = 0)) ∧
  (∀ (f : Fin 17) (s : State), s.serving = true →
     exec (.functionLevelReset f) s = .next { s with exe.deferred := s.exe.deferred ++ [.flr f.val] }) ∧
  (∀ (f : Fin 17) (s : State), s.serving = true → s.md.gated = false → s.deviceTime % 1024 = 0 → s.exe.deferred = [.flr f.val] →
     (∀ q < 64, (s.queue q).st ≠ .placing) → ∃ u, exec .roundaboutFrame s = .next u ∧ u.exe.deferred = [] ∧ ∀ x < 64,
     let c := s.ctx x
     let hit : Prop := State.resettable c.st = true ∧ (f = 0 ∨ c.cFunc.toNat = f.val)
     (hit → (u.ctx x).st = .resetting ∧ (u.ctx x).pend = true ∧ (∀ l ∈ u.exe.launches, l.ctx ≠ x)) ∧
     (¬hit → c.st ≠ .resetting → (u.ctx x).st ≠ .resetting))

/-- R329, R330: a write of an invalidation sets busy with its scope and the address of that moment; while one is busy the next is lost and says so; at its end no
cache of the module holds a matching leaf, and every other leaf stays. -/
def Obligations.Invalidations : Prop :=
  ∀ (m : Master) (x : Fin 64) (s : State),
    let c := s.ctx x.val
    let gets (i : Instr) (d : Ctx) : Prop := ∃ u, exec i s = .next u ∧ u.ctx x.val = d ∧ u.mem = s.mem ∧ u.tasks = s.tasks
    let matches_ (l : Leaf) : Prop := l.ctx = x.val ∧ (c.invScope = 1 ∨ l.va = c.invAt.toNat / 2 ^ l.size * 2 ^ l.size)
    (s.serving = true → s.isOwner m = true → c.st ≠ .free → c.st ≠ .destroyed →
      (c.invBusy = false →
        gets (.invalidatePage m x) { c with invBusy := true, invLost := false, invScope := 0, invAt := c.invVa } ∧
        gets (.invalidateContext m x) { c with invBusy := true, invLost := false, invScope := 1, invAt := c.invVa }) ∧
      (c.invBusy = true → gets (.invalidatePage m x) { c with invLost := true } ∧
        gets (.invalidateContext m x) { c with invLost := true })) ∧
    (c.invBusy = true → (∀ l < 16, (s.link l).chunks = []) → ∃ u, exec (.invalidationComplete x) s = .next u ∧ u.ctx x.val = { c with invBusy := false } ∧
      (∀ k l, matches_ l → l ∉ mget [] u.mem.tlbCore k ∧ l ∉ mget [] u.mem.tlbCluster k ∧ l ∉ mget [] u.mem.tlbDie k) ∧
      (∀ k l, ¬matches_ l → (l ∈ mget [] s.mem.tlbCore k → l ∈ mget [] u.mem.tlbCore k) ∧
        (l ∈ mget [] s.mem.tlbCluster k → l ∈ mget [] u.mem.tlbCluster k) ∧
        (l ∈ mget [] s.mem.tlbDie k → l ∈ mget [] u.mem.tlbDie k)) ∧
      u.mem.phys = s.mem.phys ∧ u.tasks = s.tasks)

/-- R310, R348, R349: a stop is reported in its context's fault words, the first of several kept, and the policy follows: 0 ends the
launch with queue error 6, 1 holds it and the context is faulted. A task that stopped for pre-emption is saved once its engines
are quiet, and its core holds no task.
Saved tasks are kept as values: log entry 15. -/
def Obligations.StopsReportedAndSaved : Prop :=
  ∀ (core : Nat) (l : Launch) (s : State),
    let p := s.t
    let x := p.id.ctx
    p.id.core = core → p.id.launch ≠ 0 → s.launchOf p.id.launch = some l → l.id = p.id.launch → l.ctx = x →
    (∀ q ∈ s.rest, q.id.launch ≠ p.id.launch) →
    (∀ tr, p.ctl.st = .faulted → p.ctl.stopVal = some tr → p.id.ordered = false → s.dbg.trCtl = 0 → l.held = false →
      tr.reason ≠ 4 → (∀ g ∈ l.groups, g.st = .running) →
      let reports (u : State) : Prop := ((s.ctx x).fault.getLsbD 63 = false →
          let w := (u.ctx x).fault.toNat
          (u.ctx x).fault.getLsbD 63 = true ∧ w % 2 ^ 12 = p.r.xcause.toNat % 2 ^ 12 ∧
          w / 2 ^ 20 % 256 = p.r.xmask.toNat % 256 ∧ w / 2 ^ 28 % 2 ^ 24 = p.id.idx % 2 ^ 24 ∧
          w / 2 ^ 52 % 2 ^ 10 = p.id.cidBase % 2 ^ 10 ∧ (u.ctx x).faultPc = p.r.xpc ∧ (u.ctx x).faultVal = p.r.xval) ∧
        ((s.ctx x).fault.getLsbD 63 = true → (u.ctx x).faultPc = (s.ctx x).faultPc ∧
          (u.ctx x).fault = (s.ctx x).fault ||| BitVec.ofNat 64 (2 ^ 62))
      ((s.ctx x).policy.toNat % 4 = 0 → ∃ u, exec (.stopReport core) s = .next u ∧ reports u ∧
        u.launchOf l.id = none ∧ (u.queue l.q).st = .error ∧ (u.queue l.q).err = 6 ∧ (u.queue l.q).errSeq = l.seq ∧
        u.t.id.launch = 0) ∧
      ((s.ctx x).policy.toNat % 4 = 1 → ∃ u m, exec (.stopReport core) s = .next u ∧ reports u ∧
        u.launchOf l.id = some m ∧ m.held = true ∧ (∀ g ∈ m.groups, g.st = .faulted) ∧ (u.ctx x).st = .faulted ∧
        u.t.r = p.r ∧ u.t.ctl.stopVal = none)) ∧
    (p.ctl.st = .stopping → p.eng.natives = [] → p.eng.cmds = [] → p.eng.drops = [] → ∃ u v, exec (.saveComplete core) s = .next u ∧
      p.asSaved ∈ u.exe.saved ∧ u.taskOn core = some v ∧ v.id.launch = 0 ∧ v.r = (CoreTask.empty core).r ∧
      v.lm.scratch = [] ∧ v.lm.clock = p.lm.clock ∧
      ∀ m, u.launchOf l.id = some m → ∀ g ∈ m.groups, g.idx = p.id.gidx → g.replica = p.id.replica → g.st = .saved)

/-- R22, R23, R274: the power states. A module with no running queue and every cluster in retention or off may gate; its wake ends
gating; a cluster that no group holds takes any power state, and off empties its cores; a cluster that
fails is replaced by a spare of its die, or, with none left, leaves its partition and the module's spares short, and a context that
falls below its minimum so is to be saved. A gated module changes no power state and replaces no cluster.
The power states after bring-up: log entry 4. How a cluster's failure is met: log entry 52. -/
def Obligations.PowerAndClusters : Prop :=
  ∀ (cl : Nat) (p : Power) (s : State), s.serving = true →
    (s.md.gated = false → s.md.waking = false → (∀ c < 192, mget .idle s.md.power c = .retention ∨ mget .idle s.md.power c = .off) →
      (∀ q < 64, (s.queue q).st ≠ .running) → ∃ u, exec .moduleGating s = .next u ∧ u.md.gated = true ∧ u.md.waking = false ∧
      u.tasks = s.tasks ∧ u.mem = s.mem ∧ u.exe = s.exe) ∧
    (s.md.gated = true → s.md.waking = true → ∃ u, exec .wakeSequenceComplete s = .next u ∧ u.md.gated = false ∧
      u.md.waking = false ∧ u.exe.wake = 0 ∧ u.tasks = s.tasks ∧ u.mem = s.mem) ∧
    (s.md.gated = true → exec (.clusterPowerChange cl p) s = .next s ∧ exec (.clusterFailure cl) s = .next s) ∧
    (cl < 192 → s.md.gated = false → s.busy.contains cl = false → (∀ l ∈ s.exe.launches, ∀ g ∈ l.groups, g.cluster = cl → g.st ≠ .saved) → ∃ u,
      exec (.clusterPowerChange cl p) s = .next u ∧ mget .idle u.md.power cl = p ∧
      (∀ k, k ≠ cl → mget .idle u.md.power k = mget .idle s.md.power k) ∧ (p ≠ .off → u.tasks = s.tasks) ∧
      (p = .off → ∀ t ∈ u.tasks, t.id.core / 4 = cl → t.lm.scratch = [] ∧ t.r = (CoreTask.empty 0).r)) ∧
    (cl < 192 → s.md.gated = false → s.inService cl = true → s.saving = false → s.exe.launches = [] →
      let phys := 4 * (s.physCore (4 * cl) / 4)
      let dead := (List.range 4).map fun k => (HealthUnit.core, phys + k)
      let left := { s with md.retired := s.md.retired ++ dead.filter fun u => !s.md.retired.contains u }.spareLeft cl
      ∃ u, exec (.clusterFailure cl) s = .next u ∧ u.tasks = s.tasks ∧
      (∀ k < 4, (.core, phys + k) ∈ u.md.retired) ∧
      (left = true → u.md.failed = s.md.failed ∧ mget 0 u.md.mapCluster cl ≠ mget 0 s.md.mapCluster cl ∧
        ∀ x, (u.ctx x).clusters = (s.ctx x).clusters) ∧
      (left = false → u.md.failed = cl :: s.md.failed ∧ u.md.spareOut = true ∧
        ∀ x, s.userOf .core cl = some x → (s.ctx x).st = .resident → cl ∉ (u.ctx x).clusters ∧
          ((u.ctx x).clusters.length < (s.ctx x).cPart.toNat / 256 → (u.ctx x).evict = true)))

/-! ## The module -/

/-- R24, R25, R29: power-on and resets bring a module whose image and blocks verify to its links' training, unowned, with every context
free and no task; it is ready once the last link has left training (that a training that ends without a link counts so: log entry 58);
and one whose images or blocks do not verify to no ready module; a module reset keeps memory, device time and the health counts, power-on keeps only the flash; the alarm zeroes every
key, kills every context and locks the module, and a locked module answers no reset but power-on.
Values with no stated reset: log entries 1 and 3; signatures are opaque: log entry 2. What a module reset keeps of memory and time, and
that power-on blanks main memory: log entry 26. -/
def Obligations.PowerOnResetAndAlarm : Prop :=
  ∀ (m : Master) (v : BitVec 32) (c : AlarmCause) (s : State),
    let good : Prop := Config.imageAuthentic s.ownerKey (s.imageSlot 0) = true ∧ s.blockOk 1 = true ∧ s.blockOk 2 = true ∧
      s.blockOk 4 = true
    let fresh (u : State) : Prop := u.md.ready = false ∧ u.md.bootfail = false ∧ u.md.cxlUp = true ∧ u.md.locked = false ∧ u.md.own.owner = 0 ∧ u.md.gated = false ∧
      (∀ x, u.ctx x = Ctx.free) ∧ (∀ q, u.queue q = Queue.idle) ∧ u.exe.launches = [] ∧ u.exe.frame = 0 ∧ u.md.keys = [] ∧
      (∀ t ∈ u.tasks, t.id.launch = 0 ∧ t.r = (CoreTask.empty 0).r ∧ t.lm.scratch = []) ∧
      (∀ l < 16, (u.link l).st = .training ∧ (u.link l).en = true) ∧ u.md.flash.blocks = s.md.flash.blocks
    let kept (u : State) : Prop := u.mem.phys = s.mem.phys ∧ u.mem.hdm = s.mem.hdm ∧ u.now = s.now ∧ u.timeOff = s.timeOff ∧
      u.md.healthCore = s.md.healthCore ∧ u.md.healthSlice = s.md.healthSlice ∧ u.md.healthChan = s.md.healthChan ∧
      (∀ r ∈ s.md.retired, r ∈ u.md.retired) ∧ u.md.own.alarm = s.md.own.alarm
    (good → ∃ u, exec .powerOn s = .next u ∧ fresh u ∧ u.mem.phys = [] ∧ u.mem.slices = [] ∧
      u.md.own.alarm = s.md.flash.causes) ∧
    (∀ (l : Fin 16) (why : BitVec 4), s.md.booted = true → s.md.cxlUp = true → s.md.ready = false → s.md.bootfail = false →
      s.md.locked = false → (s.link l.val).st = .training → (s.link l.val).chunks = [] → ∃ u,
      exec (.linkTrainingTimeout l why) s = .next u ∧ (u.link l.val).st = .down ∧
      ((∃ j < 16, j ≠ l.val ∧ (s.link j).st = .training) → u.md = s.md) ∧
      ((∀ j < 16, j ≠ l.val → (s.link j).st ≠ .training) → u.md.ready = true ∧ u.md.own.owner = 0 ∧ u.md.own.pending = 0 ∧
        (∀ x, u.ctx x = s.ctx x) ∧ u.mem = s.mem)) ∧
    ((∀ k < 2, Config.imageAuthentic s.ownerKey (s.imageSlot k) = false) ∨ s.blockOk 1 = false ∨ s.blockOk 2 = false ∨
      s.blockOk 4 = false → ∃ u, exec .powerOn s = .next u ∧ u.md.ready = false ∧ (u.md.bootfail = true ∨ u.md.locked = true) ∧
      u.mem.phys = [] ∧ ∀ x, u.ctx x = Ctx.free) ∧
    (s.md.locked = false →
      (s.answers m = true → s.isOwner m = true →
        (good → v.toNat = 0x5A5A → ∃ u, exec (.modReset m v) s = .next u ∧ fresh u ∧ kept u) ∧
        (v.toNat ≠ 0x5A5A → exec (.modReset m v) s = .next s)) ∧
      (good → s.md.booted = true → ∃ u, exec .cxlConventionalReset s = .next u ∧ fresh u ∧ kept u)) ∧
    (s.md.locked = true → exec .cxlConventionalReset s = .next s ∧ (s.answers m = true →
      (s.isOwner m = true → exec (.modReset m v) s = .next s) ∧
      (s.isOwner m = false → exec (.modReset m v) s = .next { s with md.own.denied := min 255 (s.md.own.denied + 1) }))) ∧
    (s.md.booted = true → ∃ u, exec (.securityAlarm c) s = .next u ∧ u.md.locked = true ∧ u.md.keys = [] ∧
      u.md.credential = none ∧ (∀ x, u.ctx x = Ctx.free) ∧ u.exe.launches = [] ∧
      (u.md.own.alarm.getLsbD (match c with | .clock => 0 | .volt => 1 | .debug => 2 | .auth => 3) = true) ∧
      (∀ k, s.md.own.alarm.getLsbD k = true → u.md.own.alarm.getLsbD k = true) ∧ u.md.own.pending = 0 ∧
      (s.md.own.pending = 0 → u.md.own.owner = s.md.own.owner) ∧ u.mem.phys = s.mem.phys)

/-- R26, R27: who owns the module. An unowned module is claimed with the key and one's own number, or by the target of a
handover; the owner hands over or releases; a handover that times out gives it back; the loss of the owner's path leaves it
unowned. Any other master's handover or release is counted and changes nothing else. R28, R356: a corrected error raises its
unit's health count, up to 65,535, and the unit is marked when the count reaches its threshold; the owner's maintenance window
opens by writing 1 to bit 0.
The maintenance window: log entry 26. -/
def Obligations.OwnershipAndSpares : Prop :=
  (∀ (m : Master) (v : BitVec 32) (s : State), s.md.locked = false →
    let o := s.md.own
    let gets (i : Instr) (p : Owner) : Prop := exec i s = .next { s with md.own := p }
    (s.answers m = true →
      (m.id ≠ 0 → v.toNat / 2 ^ 24 = 0x5C → v.toNat % 16 = m.id.val →
        (o.pending = 0 ∧ o.owner = 0) ∨ o.pending = m.id.val →
        gets (.ownClaim m v) { o with owner := m.id.val, pending := 0, prev := 0 }) ∧
      (v.toNat / 2 ^ 24 ≠ 0x5C ∨ v.toNat % 16 ≠ m.id.val ∨ (o.pending = 0 ∧ o.owner ≠ 0) ∨
        (o.pending ≠ 0 ∧ o.pending ≠ m.id.val) → exec (.ownClaim m v) s = .next s) ∧
      (s.isOwner m = true →
        (1 ≤ v.toNat % 16 → v.toNat % 16 ≤ 3 → v.toNat % 16 ≠ m.id.val →
          gets (.ownHandover m v) { o with pending := v.toNat % 16, prev := o.owner, owner := 0 }) ∧
        (v.getLsbD 0 = true → gets (.ownRelease m v) { o with owner := 0 }) ∧
        (v.getLsbD 0 = false → exec (.ownRelease m v) s = .next s)) ∧
      (s.isOwner m = false → gets (.ownHandover m v) { o with denied := min 255 (o.denied + 1) } ∧
        gets (.ownRelease m v) { o with denied := min 255 (o.denied + 1) })) ∧
    (o.pending ≠ 0 → gets .handoverTimeout { o with owner := o.prev, pending := 0, prev := 0 }) ∧
    (o.owner ≠ 0 → gets .ownerPathLoss { o with owner := 0 })) ∧
  (∀ (m : Master) (v : BitVec 32) (n : Nat) (s : State),
    let up (a b : BitVec 16) : Prop := b.toNat = min 65535 (a.toNat + 1)
    let others (f : State → FMap (BitVec 16)) (u : State) : Prop := ∀ k, k ≠ n → mget 0 (f u) k = mget 0 (f s) k
    let thrCore := s.md.own.thresh.toNat % 65536
    (s.md.booted = true →
      (n < 832 → ∃ u, exec (.correctedEccEvent .core n) s = .next u ∧ others (·.md.healthCore) u ∧
        up (mget 0 s.md.healthCore n) (mget 0 u.md.healthCore n) ∧ u.md.healthSlice = s.md.healthSlice ∧
        (thrCore ≤ (mget 0 u.md.healthCore n).toNat → (.core, n) ∈ u.md.retired) ∧
        ((mget 0 u.md.healthCore n).toNat < thrCore → u.md.retired = s.md.retired) ∧ u.tasks = s.tasks) ∧
      (n < 136 → ∃ u, exec (.correctedEccEvent .slice n) s = .next u ∧ others (·.md.healthSlice) u ∧
        up (mget 0 s.md.healthSlice n) (mget 0 u.md.healthSlice n) ∧ u.md.healthCore = s.md.healthCore) ∧
      (n < 272 → ∃ u, exec (.correctedEccEvent .chan n) s = .next u ∧ others (·.md.healthChan) u ∧
        up (mget 0 s.md.healthChan n) (mget 0 u.md.healthChan n) ∧ u.md.healthCore = s.md.healthCore)) ∧
    (s.answers m = true → s.md.locked = false → s.isOwner m = true →
      (v.getLsbD 0 = true → ∃ u, exec (.maintenanceWindow m v) s = .next u ∧ u.md.own.window = true ∧
        u.md.healthCore = s.md.healthCore ∧ u.tasks = s.tasks) ∧
      (v.getLsbD 0 = false → exec (.maintenanceWindow m v) s = .next s)))

/-- R35, R36: the mailbox commands of the owner, the mailbox free and the module not locked: each leaves the mailbox busy with its
result to come, which its completion reports. Data of blocks, the log and image slots go through the buffer; a block is stored
when its form, its signature and its sequence are right. A flash that fails gives result 5 and no data.
Signatures and random values are opaque: log entry 2. The order of the checks of a block command: log entry 11. -/
def Obligations.MailboxCommands : Prop :=
  ∀ (m : Master) (v : BitVec 32) (s : State),
    let k := v.toNat / 256 % 256
    let ix := v.toNat / 2 ^ 16
    let byte (u : State) (j : Nat) : Byte := readByte u.md.own.mbData j
    let runs (i : Instr) (cmd : Nat) (p : State → Prop) : Prop := v.toNat % 256 = cmd → ∃ u, exec i s = .next u ∧ p u ∧
      u.md.own.mbBusy = true ∧ u.md.own.mbCmd = v ∧ u.tasks = s.tasks ∧ u.mem = s.mem ∧ u.exe = s.exe
    let b := (readBytes s.md.own.mbData 0 4096).take (0x80 + byteField (readBytes s.md.own.mbData 0x10 4) 0 4)
    (s.answers m = true → s.isOwner m = true → s.md.locked = false → s.md.own.mbBusy = false → s.md.flash.failing = true →
      1 ≤ k → k ≤ 5 → ix = 0 → runs (.readBlock m v) 1 fun u => u.md.own.mbNext = 5 ∧ u.md.own.mbData = s.md.own.mbData ∧
        u.md.flash.blocks = s.md.flash.blocks) ∧
    (s.answers m = true → s.isOwner m = true → s.md.locked = false → s.md.own.mbBusy = false → s.md.flash.failing = false →
      (1 ≤ k → k ≤ 5 → ix = 0 →
        runs (.readBlock m v) 1 (fun u => u.md.own.mbNext = 0 ∧
          ∀ j < min 4096 (s.block k).length, byte u j = (s.block k).getD j 0) ∧
        (State.blockShape k b = false → runs (.writeBlock m v) 2 fun u => u.md.own.mbNext = 1 ∧ u.md.flash = s.md.flash) ∧
        (State.blockShape k b = true → k ≠ 5 → byteField b 0x18 8 = 0 →
          (s.blockSigned k b = false → runs (.writeBlock m v) 2 fun u => u.md.own.mbNext = 2 ∧ u.md.flash = s.md.flash) ∧
          (s.blockSigned k b = true → State.blockSeq b ≤ State.blockSeq (s.block k) →
            runs (.writeBlock m v) 2 fun u => u.md.own.mbNext = 3 ∧ u.md.flash = s.md.flash) ∧
          (s.blockSigned k b = true → State.blockSeq (s.block k) < State.blockSeq b → b ≠ [] →
            runs (.writeBlock m v) 2 fun u => u.md.own.mbNext = 0 ∧ u.block k = b))) ∧
      (k = 0 → ix = 0 → runs (.readFlashLog m v) 3 fun u => u.md.own.mbNext = 0 ∧
        (∀ j < 8, (byte u j).toNat = s.md.flash.authFails / 2 ^ (8 * j) % 256) ∧
        (∀ j < 8, (byte u (16 + j)).toNat = s.md.flash.revoked.toNat / 2 ^ (8 * j) % 256)) ∧
      (k < 2 → runs (.writeImageChunk m v) 4 fun u => u.md.own.mbNext = 0 ∧ mget false u.md.flash.verified k = false ∧
        (∀ j < 4096, (u.imageSlot k).getD (4096 * ix + j) 0 = byte s j) ∧
        ∀ j, j < 4096 * ix → (u.imageSlot k).getD j 0 = (s.imageSlot k).getD j 0) ∧
      (k < 2 → ix = 0 → runs (.commitImageSlot m v) 5 fun u =>
        (Config.imageAuthentic s.ownerKey (s.imageSlot k) = true → u.md.own.mbNext = 0 ∧ mget false u.md.flash.verified k = true) ∧
        (Config.imageAuthentic s.ownerKey (s.imageSlot k) = false → u.md.own.mbNext = 2 ∧
          mget false u.md.flash.verified k = false)) ∧
      (v.toNat % 256 = 0 ∨ 5 < v.toNat % 256 → runs (.mbCmdBadCommand m v) (v.toNat % 256) fun u => u.md.own.mbNext = 1)) ∧
    (s.md.own.mbBusy = true → exec .mailboxCommandComplete s = .next { s with
      md.own := { s.md.own with mbResult := s.md.own.mbNext, mbNext := 0, mbBusy := false } })

/-- R350 to R353: the debug unit. The credential unlocks it and a wrong one raises the alarm; a new target disables every breakpoint
and withdraws stop requests; a request reaches every replica of the target, a saved one too, and is kept for one that is on no core; a
channel whose task is about to issue the group it names flips one bit, once, after the results due in that cycle.
The debug unit's open points: log entry 23. -/
def Obligations.DebugUnit : Prop :=
  ∀ (m : Master) (v : BitVec 32) (w : Word) (ch : Fin 4) (s : State),
    (s.md.gated = false → s.serving = true → s.isOwner m = true →
      (∀ c, s.md.credential = some c →
        (v = c → exec (.dbgUnlock m v) s = .next { s with dbg.unlocked := true }) ∧
        (v ≠ c → ∃ u, exec (.dbgUnlock m v) s = .next u ∧ u.md.locked = true ∧ u.md.own.alarm.getLsbD 2 = true)) ∧
      (s.dbg.unlocked = true →
        (∃ u, exec (.dbgTgt m w) s = .next u ∧
          (∀ j < 64, u.dbg.tgt.getLsbD j = (w.getLsbD j && (j == 63 || (32 ≤ j && j < 56) || (24 ≤ j && j < 30)))) ∧
          (∀ n, (mget 0 u.dbg.bp n).getLsbD 31 = false) ∧ (∀ t ∈ u.tasks ++ u.exe.saved, t.ctl.dbgReq = false) ∧
          u.dbg.asked = [] ∧ u.mem = s.mem) ∧
        (v.getLsbD 0 = true → ∃ u, exec (.debugStopRequest m v) s = .next u ∧ u.mem = s.mem ∧
          u.dbg = { s.dbg with asked := u.dbg.asked } ∧
          (∀ r < 3, (∀ t ∈ s.tasks ++ s.exe.saved, s.isTarget t = true → t.id.replica ≠ r) → r ∈ u.dbg.asked) ∧
          (∀ t ∈ u.tasks ++ u.exe.saved, s.isTarget t = true → t.ctl.dbgReq = true) ∧ u.tasks.map (·.r) = s.tasks.map (·.r)) ∧
        (v.getLsbD 0 = false → exec (.debugStopRequest m v) s = .next s)) ∧
      (s.dbg.unlocked = false → exec (.dbgTgt m w) s = .next s ∧ exec (.debugStopRequest m v) s = .next s)) ∧
    (s.injectDue ch.val = true → s.t.pipe.freeze = 0 → s.t.resultLate = false → s.t.landDue.awaitsLoad = false →
      let c := mget Inject.idle s.dbg.fi ch.val
      let loc := c.sel.toNat % 2 ^ 60
      let bit := c.ctl.toNat % 64
      let t := s.t.landDue
      ∃ u, exec (.faultInjection ch) s = .next u ∧ u.rest = s.rest ∧ u.mem = s.mem ∧ u.t.pipe = t.pipe ∧
        (mget Inject.idle u.dbg.fi ch.val).ctl.getLsbD 63 = false ∧ (mget Inject.idle u.dbg.fi ch.val).ctl.getLsbD 62 = true ∧
        (∀ n : Fin 32, c.sel.toNat / 2 ^ 60 = 0 → loc = n.val → u.t.sreg (.s n) = t.sreg (.s n) ^^^ BitVec.ofNat 64 (2 ^ bit)) ∧
        (c.sel.toNat / 2 ^ 60 = 3 → loc < t.usable → bit < 8 →
          readByte u.t.lm.scratch loc = readByte t.lm.scratch loc ^^^ BitVec.ofNat 8 (2 ^ bit) ∧
          ∀ a, a ≠ loc → readByte u.t.lm.scratch a = readByte t.lm.scratch a))

/-- R6, R19, R27, R30, R270, R265, R280, R286: plain register writes by a master that may make them, and the host's writes of the
host-managed range, which is main memory (log entry 42): exactly the bytes written, which every key reads as they are, and a seal written in the launch window
arms its queue. A write from a master that may not, of a reserved offset or of a read-only register, changes nothing but the
count of denied writes. The model's one stop is a host access beyond the 64-bit address space.
The stop beyond the address space: log entry 34. -/
def Obligations.RegisterAndHostWrites : Prop :=
  ∀ (m : Master) (x : Fin 64) (v : Word) (addr : Nat) (data : List Byte) (s : State),
    let page (off : Nat) : Instr := .registerWrite m (0x200000 + 0x1000 * x.val + off) v
    let c := s.ctx x.val
    let gets (off : Nat) (d : Ctx) : Prop := ∃ u, exec (page off) s = .next u ∧ u.ctx x.val = d ∧
      (∀ y, y ≠ x.val → u.ctx y = s.ctx y) ∧ u.tasks = s.tasks ∧ u.mem = s.mem
    (s.serving = true → s.isOwner m = true →
      gets 0x008 { c with func := BitVec.ofNat 32 (v.toNat % 32) } ∧ gets 0x00C { c with policy := v.setWidth 3 } ∧
      gets 0x010 { c with part := v.setWidth 16 } ∧ gets 0x018 { c with ptroot := v } ∧ gets 0x020 { c with queues := v } ∧
      gets 0x028 { c with saveBase := v } ∧ gets 0x030 { c with saveLen := v } ∧ gets 0x180 { c with invVa := v } ∧
      (c.invBusy = true → c.st ≠ .free → c.st ≠ .destroyed → gets 0x188 { c with invLost := true }) ∧
      (s.md.gated = false → exec (.registerWrite m 0x300000 v) s =
        .next { s with exe.lwBase := BitVec.ofNat 64 (v.toNat / 2 ^ 16 * 2 ^ 16) })) ∧
    (s.mayQueue m x.val = true → ∃ u, exec (.registerWrite m (0x10000C + 0x1000 * x.val) v) s = .next u ∧
      u.queue x.val = { s.queue x.val with stallCfg := v.setWidth 32 } ∧ (∀ k, k ≠ x.val → u.queue k = s.queue k)) ∧
    (s.serving = true → s.isOwner m = false → ∀ off ∈ [0x018, 0x188], exec (page off) s =
      .next { s with md.own.denied := min 255 (s.md.own.denied + 1) }) ∧
    exec (page 0x000) s = .next s ∧ exec (.registerWrite m 0x800000 v) s = .next s ∧
    (addr + data.length ≤ 2 ^ 64 → s.md.ready = true → ∃ u, exec (.hostMemoryAccess addr data) s = .next u ∧
      (∀ k < data.length, readByte u.mem.hdm (addr + k) = data.getD k 0) ∧
      (∀ a, a < addr ∨ addr + data.length ≤ a → readByte u.mem.hdm a = readByte s.mem.hdm a) ∧
      (∀ k < data.length, addr + k < 0x12000000000 → readByte u.mem.phys (addr + k) = data.getD k 0) ∧
      (∀ a, a < addr ∨ addr + data.length ≤ a → readByte u.mem.phys a = readByte s.mem.phys a) ∧ u.mem.tag = s.mem.tag ∧
      (∀ key, ∀ k < data.length, addr + k < 0x12000000000 → u.physByte key (addr + k) = data.getD k 0) ∧
      (∀ key a, (∀ k < data.length, (addr + k) / 32 ≠ a / 32) → u.physByte key a = s.physByte key a) ∧
      u.tasks = s.tasks ∧
      (∀ y, data = [0xA5] → s.md.locked = false → s.md.gated = false → s.queueCtx x.val = some y → (s.ctx y).st ≠ .resetting →
        (s.ctx y).st ≠ .destroyed → (s.queue x.val).st = .idle → (s.queue x.val).head < 16 →
        addr = s.slotPos x.val (s.queue x.val).head + 255 → (u.queue x.val).st = .armed)) ∧
    (2 ^ 64 < addr + data.length → exec (.hostMemoryAccess addr data) s = .fault .outsideAddressSpace)

/-! ## Links -/

/-- R338 to R340, R343: the states of a link. Enabling starts training and disabling drops it with reason 5; training with at least
four good lanes and the partner's window brings it up, degraded where the spare is among them; a lane past its threshold is
replaced by the spare once, and a link that uses the spare does not come up without it; silence, and a training that times out, take it
down. A link that starts training takes the window length of that moment and states it to its partner; a change of the length retrains
every live link.
Sixteen corrections within 50 ns, each the time since a Sync's origin less the peer's delay, lock device time; a Pdelay exchange
measures the delay; a better clock announced is locked to anew, and 10 ms of holdover end in locked alone
or free.
The links' open points: log entry 32; the time messages: log entry 58. -/
def Obligations.LinkStates : Prop :=
  ∀ (m : Master) (l : Fin 16) (v : BitVec 32) (good : BitVec 5) (why : BitVec 4) (lane : Fin 5) (off : Word) (s : State),
    let k := s.link l.val
    let gets (i : Instr) (p : Link → Prop) : Prop := ∃ u, exec i s = .next u ∧ p (u.link l.val) ∧ u.mem = s.mem ∧ u.exe = s.exe
    let trains (k j : Link) (win : Nat) : Prop := j.st = .training ∧ j.pwin = none ∧ j.win = win ∧ j.discard = false ∧
      (∃ e ∈ j.unacked, e.item = .train win k.lanes k.nextChunk s.clockId) ∧ j.chunks = k.chunks ∧ j.lanes = k.lanes ∧
      j.nextChunk = k.nextChunk ∧ j.last = k.last
    (s.serving = true → s.isOwner m = true →
      (k.st = .down → v.getLsbD 0 = true → gets (.lnkCtl m l v) fun j => trains k j s.net.win ∧ j.en = true) ∧
      (k.st = .up → v.getLsbD 0 = false → k.chunks = [] → gets (.lnkCtl m l v) fun j =>
        j.st = .down ∧ j.why = 5 ∧ j.en = false ∧ j.unacked = []) ∧
      (∃ u, exec (.lnkWin m v) s = .next u ∧ u.net.win = (if 6 < v.toNat % 16 then 2 else v.toNat % 16) ∧
        (∀ j < 16, ((s.link j).live = true → trains (s.link j) (u.link j) u.net.win) ∧
          ((s.link j).live = false → (s.link j).st ≠ .training ∨ (∀ i < 16, (s.link i).live = false) → u.link j = s.link j)) ∧
        u.mem = s.mem)) ∧
    (k.st = .training → k.pwin = some k.win → s.md.gated = true → popcount good = 5 → k.lanes.getLsbD 4 = false →
      gets (.linkTrainingComplete l good) fun j => j.st = .up ∧ j.unacked.getLast?.map (·.item) = some (.gate true)) ∧
    (k.st = .training → k.pwin = some k.win → s.md.gated = false →
      (good.getLsbD 0 && good.getLsbD 1 && good.getLsbD 2 && good.getLsbD 3 = true → k.lanes.getLsbD 4 = false →
        gets (.linkTrainingComplete l good) fun j => j = { k with
          st := .up, lanes := 0x0F, credits := 64, gated := false, waiting := false }) ∧
      (popcount good = 4 → good.getLsbD 4 = true → k.lanes.getLsbD 4 = false →
        gets (.linkTrainingComplete l good) fun j => j = { k with
          st := .degraded, lanes := good, credits := 64, gated := false, waiting := false }) ∧
      (good.getLsbD 4 = false → k.lanes.getLsbD 4 = true → k.chunks = [] → gets (.linkTrainingComplete l good) fun j =>
        j.st = .down ∧ j.why = 1 ∧ j.lanes = k.lanes) ∧
      (popcount good < 4 → k.lanes.getLsbD 4 = false → k.chunks = [] → gets (.linkTrainingComplete l good) fun j => j.st = .down ∧ j.why = 1)) ∧
    (∀ w, k.st = .training → k.pwin = some w → w ≠ k.win → k.chunks = [] → gets (.linkTrainingComplete l good) fun j =>
      j.st = .down ∧ j.why = 2) ∧
    (k.st = .training → k.chunks = [] → 1 ≤ why.toNat → why.toNat ≤ 3 → gets (.linkTrainingTimeout l why) fun j =>
      j.st = .down ∧ j.why = why.toNat) ∧
    (k.st = .down → k.en = true → s.md.ready = true → gets (.linkTrainingTimeout l why) fun j => trains k j s.net.win) ∧
    (k.st = .up → k.lanes.getLsbD lane.val = true → gets (.laneErrorThreshold l lane) fun j => j.st = .degraded ∧
      (k.errThr.toNat < (mget 0 j.laneErr lane.val).toNat ∨ k.errThr = BitVec.allOnes 32)) ∧
    (k.st = .degraded → k.lanes.getLsbD lane.val = true → k.chunks = [] → gets (.laneErrorThreshold l lane) fun j =>
      j.st = .failed) ∧
    (k.st = .up ∨ k.st = .degraded → k.chunks = [] → gets (.partnerSilenceTimeout l) fun j => j.st = .down ∧ j.why = 4) ∧
    (∀ p q i n, k.hears = true → let own := (s.net.prio1, Config.clockQuality, s.clockId, 0)
      State.clockBefore (p, q, i, n) own = true → (∀ j < 16, j ≠ l.val → (s.link j).announce = none) →
      s.net.grand = true ∨ s.net.master ≠ l.val → ∃ u, exec (.timeMessage l off (.announce p q i n)) s = .next u ∧
      u.net.master = l.val ∧ u.net.grand = false ∧ u.net.timeSt = .locking ∧ u.net.syncs = 0 ∧ u.timeOff = s.timeOff) ∧
    (k.hears = true → gets (.timeMessage l off .pdelayReq) fun j => j.unacked.getLast?.map (·.item) = some (.time 1
      [BitVec.ofNat 64 k.timeSeq, s.clockId, BitVec.ofNat 64 l.val, BitVec.ofNat 64 s.deviceTime, s.leaves k])) ∧
    (∀ t0 d, k.hears = true → k.asked = some t0 → gets (.timeMessage l off (.pdelayResp d)) fun j => j.asked = none ∧
      j.delay = BitVec.ofInt 64 (((s.deviceTime : Int) - t0.toInt - d.toInt) / 2)) ∧
    (k.st = .up → k.discard = false → s.net.grand = false → s.net.master = l.val → s.net.timeSt = .locking → ∃ u,
      exec (.timeMessage l off .sync) s = .next u ∧ let o := (off - k.delay).toInt
      u.timeOff = s.timeOff - o ∧ u.net.syncs = (if o.natAbs ≤ 50 then min (s.net.syncs + 1) 16 else 0) ∧
      (o.natAbs ≤ 50 → 15 ≤ s.net.syncs → u.net.timeSt = .locked) ∧
      (50 < o.natAbs → u.net.timeSt = .locking)) ∧
    (s.net.timeSt = .holdover → ∃ u, exec .holdoverTimeout s = .next u ∧ u.tasks = s.tasks ∧
      ((∃ j < 16, (s.link j).live = true) → u.net.timeSt = .free) ∧
      ((∀ j < 16, (s.link j).live = false) → u.net.timeSt = .locked ∧ u.net.grand = true))

/-- R256, R335 to R337, R340 to R342: what links carry. A chunk is admitted with the partner's credit and the next sequence number,
its command's unit counted as sent; a message in sequence is applied whole for a context that receives and answered with its
acknowledgement and a credit, a refused one leaves memory as it is; an acknowledgement takes the chunk's bytes off its
counter; credits, gates, training records, requests and idle flits change what they name, and a negative acknowledgement sends the flits
from the discarded one again. A link that discards takes nothing until its partner's replay begins. A route that is invalid, whose link is
not live or whose context the partner has not configured, faults the command with reason 6.
The links' open points: log entry 32. -/
def Obligations.LinkTraffic : Prop :=
  ∀ (l : Fin 16) (msg : LinkMsg) (seq12 ack : BitVec 12) (flags : BitVec 6) (seq : BitVec 32) (n : BitVec 16) (win : BitVec 4)
    (lanes : BitVec 5) (next : BitVec 32) (clock : Word) (g dup : Bool) (s : State),
    let k := s.link l.val
    let gets (i : Instr) (j : Link) : Prop := ∃ u, exec i s = .next u ∧ u.link l.val = j ∧
      (∀ h, h ≠ l.val → u.link h = s.link h) ∧ u.tasks = s.tasks ∧ u.mem = s.mem
    let heard (k : Link) : Link := if k.joined then { k with joined := false } else { k with rxFlit := k.rxFlit + 1 }
    let ends (e : Sent) : BitVec 12 := e.flit + BitVec.ofNat 12 ((e.pos + itemRoom e.item - 1) / 248)
    let va := msg.va.toNat
    let answers (refused : Bool) (u : State) : Prop := (u.link l.val).last = msg.seq ∧
      (u.link l.val).unacked.getLast?.map (·.item) = some (.credit 1) ∧
      (u.link l.val).unacked.dropLast.getLast?.map (·.item) = some (.accept 0 refused false msg.seq) ∧
      u.tasks.map (·.r) = s.tasks.map (·.r)
    (k.hears = true →
      (∃ u, exec (.paddingMessage l) s = .next u ∧ (u.link l.val).rxData = 248 ∧ u.mem = s.mem ∧ u.tasks = s.tasks) ∧
      gets (.credit l n) { heard k with credits := k.credits + n.toNat } ∧
      gets (.gate l g) { heard k with gated := g, waiting := g && k.waiting } ∧
      gets (.negativeAcknowledgement l seq12) (if (k.txFlit - seq12).toNat ≤ 128
        then { heard k with replay := k.replay + BitVec.ofNat 64 (k.txFlit - seq12).toNat,
                            freeAt := max k.freeAt (100 * s.now) + 512 * (k.txFlit - seq12).toNat } else heard k) ∧
      gets (.idleFlit l ack) { k with unacked := k.unacked.filter fun e => 2048 ≤ (ack - ends e).toNat } ∧
      gets (.wakeRequest l) (heard k) ∧
      (s.md.gated = true → ∃ u, exec (.wakeRequest l) s = .next u ∧ u.md.waking = true) ∧
      (s.md.gated = false → msg.seq = k.last + 1 → msg.data.length = 4 → va % 4 = 0 →
        (State.receives s msg.ctx.val = true → s.mapped msg.ctx.val va 4 .w = true → ∀ pa,
          s.agentPa msg.ctx.val va .w = some pa → pa % 4 = 0 → ∀ i ∈ [Instr.writeMessage l msg, .signalMessage l msg], ∃ u,
          exec i s = .next u ∧ answers false u ∧
          (∀ j < 4, u.physByte (s.keyOf msg.ctx.val) (pa + j) = msg.data.getD j 0) ∧
          ∀ a, a < pa ∨ pa + 4 ≤ a → u.physByte (s.keyOf msg.ctx.val) a = s.physByte (s.keyOf msg.ctx.val) a) ∧
        (State.receives s msg.ctx.val = true → s.mapped msg.ctx.val va 4 .rw = true → msg.op.val = 0 → ∀ old pa,
          s.agentRead msg.ctx.val va 4 = some old → s.agentPa msg.ctx.val va .w = some pa → pa % 4 = 0 → ∃ u,
          exec (.reduceMessage l msg) s = .next u ∧ answers false u ∧ ∀ j < 4,
          (u.physByte (s.keyOf msg.ctx.val) (pa + j)).toNat = (leNat old + leNat msg.data) % 2 ^ 32 / 2 ^ (8 * j) % 256) ∧
        (State.receives s msg.ctx.val = false → ∀ i ∈ [Instr.writeMessage l msg, .reduceMessage l msg, .signalMessage l msg],
          ∃ u, exec i s = .next u ∧ answers true u ∧ u.mem = s.mem))) ∧
    (k.discard = true → k.st ≠ .training → ∀ i ∈ [Instr.paddingMessage l, .credit l n, .gate l g, .negativeAcknowledgement l seq12,
      .idleFlit l ack, .writeMessage l msg, .reduceMessage l msg, .signalMessage l msg, .chunkAccept l flags g dup seq], exec i s = .next s) ∧
    (k.st = .training → ∃ u, exec (.train l win lanes next clock) s = .next u ∧ (u.link l.val).pwin = some win.toNat ∧
      (u.link l.val).pclock = some clock ∧
      (u.link l.val).fresh = false ∧ (u.link l.val).last = (if k.fresh then next - 1 else k.last) ∧ u.mem = s.mem) ∧
    (∀ (core i : Nat) (p : CoreTask) (c : Cmd), s.taskOn core = some p → p.eng.cmds[i]? = some c → c.op = .sig → c.running = true →
      (c.d.getD 1 0).toNat / 2 ^ 60 = 2 → (∀ x ∈ p.eng.cmds, x.ord = c.ord → x = c) → p.active = true → p.pipe.freeze = 0 →
      c.total = 1 → c.pub = false →
      (c.units = 0 → s.md.gated = false → s.net.timeSt = .locked →
        let r := mget 0 s.net.routes (256 * p.id.ctx + (c.d.getD 1 0).toNat / 2 ^ 52 % 256)
        r.getLsbD 31 = true → r.toNat / 2 ^ 16 % 16 = l.val → k.live = true → k.gated = false → 0 < k.credits →
        k.unacked = [] → k.chunks = [] → c.ahead = [] → r.toNat % 64 ∉ k.absent → k.swapEnd ≤ s.deviceTime → s.meetsBound k 4 = true →
        OnCore s (.linkAdmission core i) core fun u q => ∃ d e mm, q.eng.cmds[i]? = some d ∧ d = { c with units := 1 } ∧
          q.r = p.r ∧ q.lm.scratch = p.lm.scratch ∧ (u.link l.val).credits = k.credits - 1 ∧
          (u.link l.val).nextChunk = k.nextChunk + 1 ∧ (u.link l.val).unacked.getLast? = some e ∧ e.item = .msg 3 mm ∧ mm.seq = k.nextChunk ∧
          mm.va.toNat = (c.d.getD 1 0).toNat % 2 ^ 48 ∧ mm.ctx.val = r.toNat % 64 ∧ leNat mm.data = (c.d.getD 6 0).toNat % 2 ^ 32 ∧
          ∃ w ∈ q.eng.linkWins, w.1 = c.ord ∧ (s.deviceTime / k.windowNs + 2) * k.windowNs + 50 ≤ w.2) ∧
      (c.units = 0 → s.md.gated = false →
        let r := mget 0 s.net.routes (256 * p.id.ctx + (c.d.getD 1 0).toNat / 2 ^ 52 % 256)
        c.faulted = false → (r.getLsbD 31 = false ∨ (s.link (r.toNat / 2 ^ 16 % 16)).live = false ∨
          r.toNat % 64 ∈ (s.link (r.toNat / 2 ^ 16 % 16)).absent) →
        OnCore s (.linkAdmission core i) core fun u q => q.r = p.r ∧ u.link l.val = k ∧
          ∃ tr ∈ q.ctl.due, tr.cause = 0x08 ∧ tr.reason = 6) ∧
      (∀ ch, k.hears = true → p.held.sync = none → c.ahead = [] → ch.unit = 0 → ch.link = l.val → ch.msg.ctx.val ∉ k.absent →
        k.chunks = [ch] → ch.seq = seq → ch.lost = false → ch.core = core → ch.launch = p.id.launch →
        ch.idx = p.id.idx → ch.ord = c.ord → ch.bytes = 4 → c.acked = 0 → c.cw = false → c.units = 1 →
        (OnCore s (.chunkAccept l flags false dup seq) core fun u q => (u.link l.val).chunks = [] ∧
          q.ctr c.ctr = (p.ctr c.ctr + (2 ^ 32 - 4)) % 2 ^ 32 ∧ (∀ x ∈ q.eng.cmds, x.ord ≠ c.ord) ∧
          q.r.fsr = p.r.fsr ||| c.flags ||| (if dup then 0 else flags)) ∧
        (c.faulted = false → OnCore s (.chunkAccept l flags true dup seq) core fun _ q => q.r = p.r ∧
          ∃ tr ∈ q.ctl.due, tr.cause = 0x08 ∧ tr.reason = 9)))

/-! ## Encodings, steps, and what holds of every state -/

/-- R105 to R127: decoding the encoding of any legal syllable gives that syllable, every operand at every value its field
admits, the long immediate of R120 included. -/
def Obligations.EncodingRoundTrip : Prop :=
  ∀ i : Instr, WellFormed i = true → isSyllable i = true → decodeWords (encode i) = .ok i

/-- The words that the spec writes out in its examples ("A group encoded" of 05 and the examples of 06, 09, 10 and 13, which
are no rules) decode to the instructions they name. -/
def Obligations.SampleWords : Prop :=
  decodeWords [0x00305050FFFFFFFF] = .ok (.addi .sa none (.reg (.s 5)) (.reg (.s 5)) (-1)) ∧
  decodeWords [0x2040D00504000440] = .ok (.tfma .none .f32 .rne (.idx 3 0) (.idx 1 0) (.h 0)) ∧
  decodeWords [0x3050602000000200] = .ok (.ld32 none (.reg (.s 6)) (.reg (.s 2)) 0x200) ∧
  decodeWords [0xD019000000000018] = .ok (.br (some 1) 0x18) ∧
  decodeWords [0xC021C00000070000] = .ok (.cpya none 1 true true 0 7 none) ∧
  decodeWords [0x1180400000000010, 0xE000000000000100] = .ok (.li .sb none (.reg (.s 4)) 0x10000000010) ∧
  decodeWords [0xD070039000000000] = .ok (.rcallAsync none 3 2) ∧
  decodeWords [0xD050200000000003] = .ok (.loop none (.reg (.s 2)) 3) ∧
  decodeWords [0xB182100000000000] = .ok (.xfence none 4 4)

/-- 05 R128, R129, 06 R137, R151, 22 R345: a turn of the agenda that is an event is that event's meaning; a turn that is a core is one
cycle of that core. Where nothing holds the core's task back and the words at its program counter decode to an instruction,
the cycle is `exec` of that instruction on the opened group, then what every issued group adds: its count, its trace, the
end of the cycle and the choice of the next group; or the group is held back and nothing of it issues, for an uncorrectable sector
with the stop before it.
The agenda is the model's own: log entry 6. -/
def Obligations.StepRunsDecodedInstruction : Prop :=
  ∀ (s : State) (rest : List Turn),
    (∀ i, s.agenda = .event i :: rest → step s = exec i { s with agenda := rest }) ∧
    (∀ k, s.agenda = .core k :: rest → step s = .next (State.cycle ({ s with agenda := rest }.switchTo k))) ∧
    (∀ (ws : List Word) (i : Instr) (w0 : Word), let t := s.t
      s.agenda = .core t.id.core :: rest → t.ctl.st = .running → t.ctl.due = [] → t.ctl.dbgReq = false → t.ctl.stopReq = false →
      t.held.sync = none → t.pipe.waits = [] → t.pipe.hold = 0 → t.pipe.pend = [] → t.pipe.loads = [] → t.pipe.suppress = 0 →
      t.pipe.freeze < 2 ^ 20 → t.pipe.interv < t.code.interval → (s.isTarget t = true → t.pipe.bpSkip = true) →
      (∀ n < 4, bitOf (mget Inject.idle s.dbg.fi n).ctl 63 = false) →
      t.eng.acks = [] → t.eng.drops = [] → t.held.publishing = none → t.groupAt 16385 t.r.pc = some ws → ws.head? = some w0 → decodeWords ws = .ok i →
      let begun := State.passTime { s with agenda := rest }
      let u := ((begun.notePoint.onT fun t => t.land.startCmds).count t.id.ctx 0 1).onT fun t => { t with pipe.ppoint := false }
      let classes := if ws.length = 2 then [classOf w0, 6] else [classOf w0]
      ∀ v, exec i (u.onT (·.openGroup ws [⟨classOf w0, ws.length = 2, i⟩])) = .next v →
        step s = .next (State.endCycle (
          match v.t.pipe.grp.back with
          | some (.memory a) => (u.onT (·.closeCycle)).stopTask
              { cause := 0x0E, sub := 0, cls := 0, val := BitVec.ofNat 64 a, reason := 0 } true
          | some b => u.holdBack b
          | none =>
            let x := (v.onT (·.counted)).traceGroup u.t.pipe t.r.pc classes
            let x := if u.t.pipe.recount then x else x.count v.t.id.ctx 1 1
            let x := match i with | .ppac .. => x.count v.t.id.ctx 4 1 | _ => x
            (x.onT (·.closeCycle)).closeGroup)))

/-- R3, R12, R80: no step leaves the canonical form of memory, in any state: main memory, the host-managed range, the slices and
every task's scratchpad. The form is the model's own, with the unwritten byte of log entry 1. -/
def Obligations.MemoryStaysCanonical : Prop := ∀ s t : State, MemoryCanonical s → step s = .next t → MemoryCanonical t

/-- R24, R26, R74, R271, R290, R350: reset has the canonical form, and what the spec says reset leaves: an unowned module not
yet ready, every context free, every queue idle, the debug unit locked with no target, and the scalar and tile registers,
predicates, fcr, fsr and program counter of the task at their load values. The unwritten byte and the values no rule gives are
the model's: log entries 1 and 3. -/
def Obligations.ResetIsCanonical : Prop :=
  let s := State.reset
  MemoryCanonical s ∧ s.md.ready = false ∧ s.md.own.owner = 0 ∧ s.md.own.pending = 0 ∧ (∀ x, s.ctx x = Ctx.free) ∧
    (∀ q, s.queue q = Queue.idle) ∧ s.exe.launches = [] ∧ s.exe.frame = 0 ∧ s.dbg.unlocked = false ∧ s.dbg.tgt = 0 ∧
    (∀ r : SReg, s.t.sreg r = 0) ∧ (∀ j, s.t.pred j = false) ∧ s.t.r.fcr = 0 ∧ s.t.r.fsr = 0 ∧ s.t.r.pc = 0 ∧
    (∀ d, s.t.row d = 0) ∧ s.t.lm.scratch = []
end

