-- ==== Sys2Proof/Laws/Data.lean ====
section
/-! SUPPORT. Laws of the sparse data and of memory: read after write, the canonical form, and little-endian bytes. -/

namespace Sys2Proof.Machine

section
variable {α : Type} [DecidableEq α] {d : α}

/-- The canonical form of a non-empty map, part by part. -/
theorem mwf_cons {a : Nat} {x : α} {m : FMap α} :
    mwf d ((a, x) :: m) = true ↔ x ≠ d ∧ (∀ e ∈ m.head?, a < e.1) ∧ mwf d m = true := by
  cases m with
  | nil => simp [mwf]
  | cons e m => obtain ⟨b, y⟩ := e; simp [mwf, and_assoc]

/-- A key below every listed one reads as the default. -/
theorem mget_below {m : FMap α} {k : Nat} (h : mwf d m = true) (hk : ∀ e ∈ m.head?, k < e.1) : mget d m k = d := by
  induction m with
  | nil => rfl
  | cons e m ih =>
    obtain ⟨a, x⟩ := e
    obtain ⟨-, h2, h3⟩ := mwf_cons.1 h
    have hk : k < a := hk (a, x) rfl
    have : a ≠ k := by omega
    simp only [mget, this, if_false]
    exact ih h3 fun e he => Nat.lt_trans hk (h2 e he)

/-- A read of the key just written gives the value written. -/
@[simp] theorem mget_mset_same (m : FMap α) (k : Nat) (v : α) : mget d (mset d m k v) k = v := by
  induction m with
  | nil => by_cases hv : v = d <;> simp [mset, mget, hv]
  | cons e m ih =>
    obtain ⟨a, x⟩ := e
    rcases Nat.lt_trichotomy k a with h1 | h1 | h1
    · have hc : a ≠ k := by omega
      by_cases hv : v = d
      · simp only [mset, h1, ↓reduceIte, mget, hc, hv] at ih ⊢
        exact ih
      · simp [mset, mget, h1, hv]
    · subst h1
      by_cases hv : v = d
      · simp only [mset, Nat.lt_irrefl, ↓reduceIte, hv] at ih ⊢
        exact ih
      · simp [mset, mget, hv]
    · have ha : ¬k < a := by omega
      have hb : k ≠ a := by omega
      have hc : a ≠ k := by omega
      simp [mset, mget, ha, hb, hc, ih]

/-- A write leaves every other key alone, whatever the reader's default. -/
theorem mget_mset_other (m : FMap α) {k j : Nat} (v e : α) (hj : j ≠ k) : mget e (mset d m k v) j = mget e m j := by
  induction m with
  | nil => by_cases hv : v = d <;> simp [mset, mget, hv, hj.symm]
  | cons c m ih =>
    obtain ⟨a, x⟩ := c
    rcases Nat.lt_trichotomy k a with h1 | h1 | h1
    · by_cases hv : v = d
      · simp only [mset, h1, hv, ↓reduceIte, mget] at ih ⊢
        rw [ih]
      · simp only [mset, h1, hv, ↓reduceIte, mget, hj.symm]
    · subst h1
      by_cases hv : v = d
      · simp only [mset, Nat.lt_irrefl, hv, ↓reduceIte, mget, hj.symm] at ih ⊢
        exact ih
      · simp only [mset, Nat.lt_irrefl, hv, ↓reduceIte, mget, hj.symm]
    · have ha : ¬k < a := by omega
      have hb : k ≠ a := by omega
      simp only [mset, ha, hb, ↓reduceIte, mget, ih]

/-- Writing the default below every key changes nothing. -/
theorem mset_below {m : FMap α} {k : Nat} (h : mwf d m = true) (hk : ∀ e ∈ m.head?, k < e.1) : mset d m k d = m := by
  induction m with
  | nil => simp [mset]
  | cons e m ih =>
    obtain ⟨a, x⟩ := e
    obtain ⟨-, h2, h3⟩ := mwf_cons.1 h
    have hk : k < a := hk (a, x) rfl
    simp only [mset, hk, ↓reduceIte]
    rw [ih h3 fun e he => Nat.lt_trans hk (h2 e he)]

/-- A written map starts at the written key or where it started. -/
theorem mset_head {m : FMap α} {k b : Nat} {v : α} (h : mwf d m = true) (hb : b < k) (hm : ∀ e ∈ m.head?, b < e.1) :
    ∀ e ∈ (mset d m k v).head?, b < e.1 := by
  cases m with
  | nil => by_cases hv : v = d <;> simp [mset, hv, hb]
  | cons e m =>
    obtain ⟨a, x⟩ := e
    obtain ⟨-, h2, h3⟩ := mwf_cons.1 h
    have hm : b < a := hm (a, x) rfl
    rcases Nat.lt_trichotomy k a with h1 | h1 | h1
    · by_cases hv : v = d <;> simp [mset, h1, hv, hb, hm]
    · subst h1
      by_cases hv : v = d
      · intro e he
        simp only [mset, Nat.lt_irrefl, hv, ↓reduceIte, mset_below h3 h2] at he
        exact Nat.lt_trans hb (h2 e he)
      · simp [mset, hv, hb]
    · have ha : ¬k < a := by omega
      have hc : k ≠ a := by omega
      simp [mset, ha, hc, hm]

/-- A write keeps the canonical form. -/
theorem mset_wf {m : FMap α} (h : mwf d m = true) (k : Nat) (v : α) : mwf d (mset d m k v) = true := by
  induction m with
  | nil => by_cases hv : v = d <;> simp [mset, mwf, hv]
  | cons e m ih =>
    obtain ⟨a, x⟩ := e
    obtain ⟨h1, h2, h3⟩ := mwf_cons.1 h
    rcases Nat.lt_trichotomy k a with hk | hk | hk
    · by_cases hv : v = d
      · subst hv
        rw [mset_below h (by simpa using hk)]
        exact h
      · simp only [mset, hk, hv, ↓reduceIte]
        exact mwf_cons.2 ⟨hv, by simpa using hk, h⟩
    · subst hk
      by_cases hv : v = d
      · subst hv
        simpa [mset, mset_below h3 h2] using h3
      · simp only [mset, Nat.lt_irrefl, hv, ↓reduceIte]
        exact mwf_cons.2 ⟨hv, h2, h3⟩
    · have ha : ¬k < a := by omega
      have hb : k ≠ a := by omega
      simp only [mset, ha, hb, ↓reduceIte]
      exact mwf_cons.2 ⟨h1, mset_head h3 hk h2, ih h3⟩

end

/-! ## Memory -/

@[simp] theorem readByte_writeByte_same (m : Memory) (a : Nat) (b : Byte) :
    readByte (writeByte m a b) a = b := mget_mset_same m a b

theorem readByte_writeByte_other (m : Memory) {a x : Nat} (b : Byte) (hx : x ≠ a) :
    readByte (writeByte m a b) x = readByte m x := mget_mset_other m b _ hx

theorem writeByte_wf {m : Memory} (h : m.wf = true) (a : Nat) (b : Byte) : (writeByte m a b).wf = true :=
  mset_wf h a b

theorem writeBytes_wf {m : Memory} (h : m.wf = true) (a : Nat) (bs : List Byte) : (writeBytes m a bs).wf = true := by
  induction bs generalizing m a with
  | nil => exact h
  | cons b bs ih => exact ih (writeByte_wf h a b) (a + 1)

/-- A write of several bytes leaves every byte outside them alone. -/
theorem readByte_writeBytes_other (m : Memory) {a x : Nat} (bs : List Byte) (hx : x < a ∨ a + bs.length ≤ x) :
    readByte (writeBytes m a bs) x = readByte m x := by
  induction bs generalizing m a with
  | nil => rfl
  | cons b bs ih =>
    simp only [List.length_cons] at hx
    rw [writeBytes, ih _ (by omega), readByte_writeByte_other _ _ (by omega)]

/-- A read inside the bytes just written gives the byte written there. -/
theorem readByte_writeBytes_same (m : Memory) (a : Nat) (bs : List Byte) {i : Nat}
    (hi : i < bs.length) : readByte (writeBytes m a bs) (a + i) = bs[i] := by
  induction bs generalizing m a i with
  | nil => simp at hi
  | cons b bs ih =>
    cases i with
    | zero => rw [writeBytes, readByte_writeBytes_other _ _ (by omega)]; exact readByte_writeByte_same m a b
    | succ i =>
      have := ih (writeByte m a b) (a + 1) (i := i) (by simpa using hi)
      rw [writeBytes]
      simpa [Nat.add_assoc, Nat.add_comm 1 i] using this

/-- A filter keeps the canonical form. -/
theorem mwf_filter {α : Type} [DecidableEq α] {d : α} {m : FMap α} (h : mwf d m = true) (p : Nat × α → Bool) :
    mwf d (m.filter p) = true := by
  have low : ∀ {n : FMap α} {b : Nat}, mwf d n = true → (∀ e ∈ n.head?, b < e.1) → ∀ e ∈ n, b < e.1 := by
    intro n
    induction n with
    | nil => simp
    | cons e n ih =>
      intro b hn hb x hx
      obtain ⟨a, y⟩ := e
      have hb : b < a := hb (a, y) rfl
      obtain ⟨-, h2, h3⟩ := mwf_cons.1 hn
      rcases List.mem_cons.1 hx with rfl | hx
      · exact hb
      · exact Nat.lt_trans hb (ih h3 h2 x hx)
  induction m with
  | nil => rfl
  | cons e m ih =>
    obtain ⟨a, x⟩ := e
    obtain ⟨h1, h2, h3⟩ := mwf_cons.1 h
    by_cases hp : p (a, x) = true
    · rw [List.filter_cons_of_pos hp]
      refine mwf_cons.2 ⟨h1, fun e he => low h3 h2 e ?_, ih h3⟩
      exact (List.mem_filter.1 (List.mem_of_mem_head? he)).1
    · rw [List.filter_cons_of_neg hp]
      exact ih h3

/-! ## Bytes of a value -/

@[simp] theorem length_leBytes (n v : Nat) : (leBytes n v).length = n := by
  induction n generalizing v with
  | zero => rfl
  | succ n ih => simp [leBytes, ih]

theorem leNat_lt (bs : List Byte) : leNat bs < 256 ^ bs.length := by
  induction bs with
  | nil => simp [leNat]
  | cons b bs ih =>
    have hb := b.isLt
    simp only [leNat, List.length_cons, Nat.pow_succ]
    omega

/-- The n bytes of a value give the value back modulo 2^(8n). -/
theorem leNat_leBytes (n v : Nat) : leNat (leBytes n v) = v % 256 ^ n := by
  induction n generalizing v with
  | zero => simp [leBytes, leNat, Nat.mod_one]
  | succ n ih =>
    have h : v % (256 * 256 ^ n) = v % 256 + 256 * (v / 256 % 256 ^ n) := Nat.mod_mul
    have hp : 256 ^ (n + 1) = 256 * 256 ^ n := Nat.pow_succ'
    rw [hp, h, leBytes, leNat, ih, BitVec.toNat_ofNat]

/-- The bytes of the value of some bytes are those bytes. -/
theorem leBytes_leNat (bs : List Byte) : leBytes bs.length (leNat bs) = bs := by
  induction bs with
  | nil => rfl
  | cons b bs ih =>
    have hb := b.isLt
    have h1 : (b.toNat + 256 * leNat bs) / 256 = leNat bs := by omega
    have h2 : BitVec.ofNat 8 (b.toNat + 256 * leNat bs) = b := by
      apply BitVec.eq_of_toNat_eq
      rw [BitVec.toNat_ofNat]
      omega
    simp [leBytes, leNat, h1, h2, ih]

@[simp] theorem length_readBytes (m : Memory) (a n : Nat) : (readBytes m a n).length = n := by simp [readBytes]

/-- A value stored as bytes reads back. -/
theorem readNat_writeBytes (m : Memory) (a n v : Nat) :
    readNat (writeBytes m a (leBytes n v)) a n = v % 256 ^ n := by
  rw [← leNat_leBytes n v, readNat]
  congr 1
  apply List.ext_getElem
  · simp
  · intro i hi _
    have hi : i < n := by simpa using hi
    simpa [readBytes] using readByte_writeBytes_same m a (leBytes n v) (i := i) (by simpa using hi)

/-! ## Rows -/

theorem packNat_lt (w : Nat) (l : List Nat) : packNat w l < 2 ^ (w * l.length) := by
  induction l with
  | nil => simp [packNat]
  | cons x l ih =>
    have hx : x % 2 ^ w < 2 ^ w := Nat.mod_lt _ (Nat.two_pow_pos w)
    have hp : 2 ^ (w * (l.length + 1)) = 2 ^ w * 2 ^ (w * l.length) := by
      rw [Nat.mul_add, Nat.mul_one, Nat.pow_add, Nat.mul_comm]
    have hm : 2 ^ w * (packNat w l + 1) ≤ 2 ^ w * 2 ^ (w * l.length) := Nat.mul_le_mul_left _ ih
    rw [Nat.mul_add, Nat.mul_one] at hm
    simp only [packNat, List.length_cons, hp]
    omega

/-- Element j of packed elements. -/
theorem packNat_elem (w : Nat) (l : List Nat) {j : Nat} (hj : j < l.length) :
    packNat w l / 2 ^ (w * j) % 2 ^ w = l[j] % 2 ^ w := by
  induction l generalizing j with
  | nil => simp at hj
  | cons x l ih =>
    have hx : x % 2 ^ w < 2 ^ w := Nat.mod_lt _ (Nat.two_pow_pos w)
    cases j with
    | zero => simp [packNat, Nat.add_mul_mod_self_left]
    | succ j =>
      have hp : 2 ^ (w * (j + 1)) = 2 ^ w * 2 ^ (w * j) := by rw [Nat.mul_add, Nat.mul_one, Nat.pow_add, Nat.mul_comm]
      have hd : (x % 2 ^ w + 2 ^ w * packNat w l) / 2 ^ w = packNat w l := by
        rw [Nat.add_mul_div_left _ _ (Nat.two_pow_pos w), Nat.div_eq_of_lt hx, Nat.zero_add]
      rw [packNat, hp, ← Nat.div_div_eq_div_mul, hd, ih (by simpa using hj)]
      simp

/-- The elements of a packed row are the elements packed, each modulo 2^w (R40). -/
theorem rowElems_packRow {w : Nat} {l : List Nat} (hw : w * l.length = 2048) (h0 : 0 < w) :
    rowElems w (packRow w l) = l.map (· % 2 ^ w) := by
  have hn : (packRow w l).toNat = packNat w l := by
    rw [packRow, BitVec.toNat_ofNat, Nat.mod_eq_of_lt]
    simpa [hw] using packNat_lt w l
  have hl : 2048 / w = l.length := by rw [← hw, Nat.mul_div_cancel_left _ h0]
  apply List.ext_getElem
  · simp [rowElems, hl]
  · intro j h1 h2
    have hj : j < l.length := by simpa using h2
    simp [rowElems, hn, packNat_elem w l hj]

/-- Lane k of a row packed from 64 lanes. -/
theorem laneOf_packRow {l : List Nat} (hl : l.length = 64) {k : Nat} (hk : k < 64) :
    laneOf (packRow 32 l) k = l[k]'(by omega) % 2 ^ 32 := by
  have hn : (packRow 32 l).toNat = packNat 32 l := by
    rw [packRow, BitVec.toNat_ofNat, Nat.mod_eq_of_lt]
    simpa [hl] using packNat_lt 32 l
  rw [laneOf, hn, packNat_elem 32 l (by omega)]

end Sys2Proof.Machine
end

