-- ==== Sys2Proof/Laws/Memory.lean ====
section
/-! SUPPORT. What a write of main memory and of a scratchpad can do: the bytes it writes, every other byte, the canonical form. -/

namespace Sys2Proof.Machine

namespace State

/-! ## Main memory -/

theorem ownSector_phys (s : State) (key : BitVec 512) (sec : Nat) : (s.ownSector key sec).mem.phys =
    if mget none s.mem.tag sec = some key ∧ mget 0 s.mem.clear sec = 0 then s.mem.phys
    else writeBytes s.mem.phys (32 * sec) (s.physBytes key (32 * sec) 32) := by
  by_cases h : mget none s.mem.tag sec = some key ∧ mget 0 s.mem.clear sec = 0
  · rw [ownSector, if_pos h, if_pos h]
  · rw [ownSector, if_neg h, if_neg h]

theorem ownSector_tags (s : State) (key : BitVec 512) (sec : Nat) : (s.ownSector key sec).mem.tag =
    if mget none s.mem.tag sec = some key ∧ mget 0 s.mem.clear sec = 0 then s.mem.tag
    else mset none s.mem.tag sec (some key) := by
  by_cases h : mget none s.mem.tag sec = some key ∧ mget 0 s.mem.clear sec = 0
  · rw [ownSector, if_pos h, if_pos h]
  · rw [ownSector, if_neg h, if_neg h]

theorem ownSector_clear (s : State) (key : BitVec 512) (sec : Nat) : (s.ownSector key sec).mem.clear =
    if mget none s.mem.tag sec = some key ∧ mget 0 s.mem.clear sec = 0 then s.mem.clear
    else mset 0 s.mem.clear sec 0 := by
  by_cases h : mget none s.mem.tag sec = some key ∧ mget 0 s.mem.clear sec = 0
  · rw [ownSector, if_pos h, if_pos h]
  · rw [ownSector, if_neg h, if_neg h]

theorem physWriteIn_phys (s : State) (key : BitVec 512) (pa : Nat) (bs : List Byte) :
    (s.physWriteIn key pa bs).mem.phys = writeBytes (s.ownSector key (pa / 32)).mem.phys pa bs := rfl

theorem physWriteIn_tags (s : State) (key : BitVec 512) (pa : Nat) (bs : List Byte) :
    (s.physWriteIn key pa bs).mem.tag = (s.ownSector key (pa / 32)).mem.tag := rfl

theorem physWriteIn_clear (s : State) (key : BitVec 512) (pa : Nat) (bs : List Byte) :
    (s.physWriteIn key pa bs).mem.clear = (s.ownSector key (pa / 32)).mem.clear := rfl

theorem ownSector_wf {s : State} (h : s.mem.phys.wf = true) (key : BitVec 512) (sec : Nat) :
    (s.ownSector key sec).mem.phys.wf = true := by
  rw [ownSector_phys]
  split
  · exact h
  · exact writeBytes_wf h _ _

theorem physWriteIn_wf {s : State} (h : s.mem.phys.wf = true) (key : BitVec 512) (pa : Nat) (bs : List Byte) :
    (s.physWriteIn key pa bs).mem.phys.wf = true := by
  rw [physWriteIn_phys]; exact writeBytes_wf (ownSector_wf h key _) _ _

/-- Everything a write of one sector changes of the state. -/
theorem physWriteIn_frame (s : State) (key : BitVec 512) (pa : Nat) (bs : List Byte) : ∃ p g b c,
    s.physWriteIn key pa bs = { s with mem.phys := p, mem.tag := g, mem.bad := b, mem.clear := c } := by
  unfold physWriteIn ownSector
  split <;> exact ⟨_, _, _, _, rfl⟩

/-- A write of main memory changes the main memory alone, and keeps its canonical form. -/
theorem physWrite_frame (s : State) (key : BitVec 512) (pa : Nat) (bs : List Byte) : ∃ p g b c,
    s.physWrite key pa bs = { s with mem.phys := p, mem.tag := g, mem.bad := b, mem.clear := c } ∧
    (s.mem.phys.wf = true → p.wf = true) := by
  unfold physWrite
  generalize sectorPieces (bs.length / 32 + 2) pa bs = l
  induction l generalizing s with
  | nil => exact ⟨_, _, _, _, rfl, id⟩
  | cons e l ih =>
    obtain ⟨p, g, b, c, h1⟩ := physWriteIn_frame s key e.1 e.2
    obtain ⟨p2, g2, b2, c2, h2, h3⟩ := ih (s.physWriteIn key e.1 e.2)
    refine ⟨p2, g2, b2, c2, ?_, fun h => h3 (physWriteIn_wf h key _ _)⟩
    rw [List.foldl_cons, h2, h1]

theorem physWrite_wf {s : State} (h : s.mem.phys.wf = true) (key : BitVec 512) (pa : Nat) (bs : List Byte) :
    (s.physWrite key pa bs).mem.phys.wf = true := by
  obtain ⟨p, g, b, c, h1, h2⟩ := physWrite_frame s key pa bs
  rw [h1]; exact h2 h

theorem length_physBytes (s : State) (key : BitVec 512) (pa n : Nat) : (s.physBytes key pa n).length = n := by
  simp [physBytes]

theorem getElem_physBytes (s : State) (key : BitVec 512) (pa n i : Nat) (h : i < (s.physBytes key pa n).length) :
    (s.physBytes key pa n)[i] = s.physByte key (pa + i) := by simp [physBytes]

theorem ownSector_tag (s : State) (key : BitVec 512) (sec : Nat) :
    mget none (s.ownSector key sec).mem.tag sec = some key := by
  rw [ownSector_tags]
  split
  · exact ‹_ ∧ _›.1
  · exact mget_mset_same _ _ _

/-- A byte of a sector that a key wrote is its plaintext to that key. -/
theorem physByte_own {s : State} {key : BitVec 512} {a : Nat} (h : mget none s.mem.tag (a / 32) = some key) :
    s.physByte key a = readByte s.mem.phys a := by simp [physByte, h]

/-- Two states with one sector in common read it alike under every key. -/
theorem physByte_congr {s u : State} (k : BitVec 512) {a : Nat}
    (hc : mget 0 u.mem.clear (a / 32) = mget 0 s.mem.clear (a / 32)) (ht : mget none u.mem.tag (a / 32) = mget none s.mem.tag (a / 32))
    (hp : ∀ x, x / 32 = a / 32 → readByte u.mem.phys x = readByte s.mem.phys x) : u.physByte k a = s.physByte k a := by
  have h2 : readBytes u.mem.phys (a / 32 * 32) 32 = readBytes s.mem.phys (a / 32 * 32) 32 := by
    unfold readBytes
    apply List.map_congr_left
    intro i hi
    exact hp _ (by simp at hi; omega)
  unfold physByte
  rw [hc, ht, hp a rfl, h2]

/-- Taking a sector over changes no byte of the others, as any key reads them. -/
theorem physByte_ownSector_other (s : State) (key k : BitVec 512) {sec a : Nat} (ha : a / 32 ≠ sec) :
    (s.ownSector key sec).physByte k a = s.physByte k a := by
  apply physByte_congr
  · rw [ownSector_clear]; split
    · rfl
    · exact mget_mset_other _ _ _ ha
  · rw [ownSector_tags]; split
    · rfl
    · exact mget_mset_other _ _ _ ha
  · intro x hx
    rw [ownSector_phys]; split
    · rfl
    · exact readByte_writeBytes_other _ _ (by rw [length_physBytes]; omega)

/-- Taking a sector over changes no byte as the new owner reads it. -/
theorem physByte_ownSector (s : State) (key : BitVec 512) (sec a : Nat) :
    (s.ownSector key sec).physByte key a = s.physByte key a := by
  by_cases ha : a / 32 = sec
  · subst ha
    rw [physByte_own (ownSector_tag s key _), ownSector_phys]
    split
    · rename_i h; exact (physByte_own h.1).symm
    · have hl : a % 32 < (s.physBytes key (32 * (a / 32)) 32).length := by rw [length_physBytes]; omega
      have h2 := readByte_writeBytes_same s.mem.phys (32 * (a / 32)) _ hl
      rw [getElem_physBytes, show 32 * (a / 32) + a % 32 = a by omega] at h2
      exact h2
  · exact physByte_ownSector_other s key key ha

/-- A write within one sector leaves the other sectors as every key reads them. -/
theorem physByte_physWriteIn_other (s : State) (key k : BitVec 512) {pa a : Nat} {bs : List Byte}
    (h : pa % 32 + bs.length ≤ 32) (ha : a / 32 ≠ pa / 32) : (s.physWriteIn key pa bs).physByte k a = s.physByte k a := by
  rw [← physByte_ownSector_other s key k ha]
  apply physByte_congr
  · rw [physWriteIn_clear]
  · rw [physWriteIn_tags]
  · intro x hx
    rw [physWriteIn_phys]
    exact readByte_writeBytes_other _ _ (by omega)

/-- Within its sector a write changes exactly its bytes, as its key reads them. -/
theorem physByte_physWriteIn (s : State) (key : BitVec 512) {pa a : Nat} {bs : List Byte} (ha : a / 32 = pa / 32) :
    (s.physWriteIn key pa bs).physByte key a =
      if h : pa ≤ a ∧ a < pa + bs.length then bs[a - pa]'(by omega) else s.physByte key a := by
  have ht : mget none (s.physWriteIn key pa bs).mem.tag (a / 32) = some key := by
    rw [physWriteIn_tags, ha]; exact ownSector_tag s key _
  rw [physByte_own ht, physWriteIn_phys]
  split
  · have := readByte_writeBytes_same (s.ownSector key (pa / 32)).mem.phys pa bs (i := a - pa) (by omega)
    rwa [show pa + (a - pa) = a by omega] at this
  · rw [readByte_writeBytes_other _ _ (by omega), ← physByte_ownSector s key (pa / 32) a]
    exact (physByte_own (by rw [ha]; exact ownSector_tag s key _)).symm

end State

/-! ## The scratchpad -/

namespace CoreTask

theorem putScratch_wf {t : CoreTask} (h : t.lm.scratch.wf = true) (a : Nat) (b : Byte) (g : BitVec 4) :
    (t.putScratch a b g).lm.scratch.wf = true := writeByte_wf h a b

theorem putScratches_wf {t : CoreTask} (h : t.lm.scratch.wf = true) (a : Nat) (bs : List Byte) (g : BitVec 4) :
    (t.putScratches a bs g).lm.scratch.wf = true := by
  unfold putScratches
  generalize bs.zipIdx = l
  induction l generalizing t with
  | nil => exact h
  | cons e l ih => exact ih (putScratch_wf h _ _ _)

theorem soundSectors_scratch (t : CoreTask) (l : List Nat) : (t.soundSectors l).lm.scratch = t.lm.scratch := by
  unfold soundSectors; split <;> rfl

/-- The bytes and everything but the scratchpad and its tags, after a write of bytes from an address up. -/
theorem putScratches_eq (t : CoreTask) (a : Nat) (bs : List Byte) (g : BitVec 4) :
    ∃ tags, t.putScratches a bs g = { t with lm.scratch := writeBytes t.lm.scratch a bs, lm.tags := tags } := by
  have go : ∀ (bs : List Byte) (k : Nat) (t : CoreTask), ∃ tags,
      (bs.zipIdx k).foldl (fun t b => t.putScratch (a + b.2) b.1 g) t =
        { t with lm.scratch := writeBytes t.lm.scratch (a + k) bs, lm.tags := tags } := by
    intro bs
    induction bs with
    | nil => exact fun k t => ⟨_, rfl⟩
    | cons b bs ih =>
      intro k t
      obtain ⟨tags, h⟩ := ih (k + 1) (t.putScratch (a + k) b g)
      exact ⟨tags, h⟩
  exact go bs 0 t

/-- What putAll can do: its bytes, their tags, and the soundness of the sectors it writes whole. -/
theorem putAll_eq (t : CoreTask) (a : Nat) (bs : List Byte) (g : BitVec 4) : ∃ tags bad,
    t.putAll a bs g = { t with lm.scratch := writeBytes t.lm.scratch a bs, lm.tags := tags, lm.bad := bad } := by
  obtain ⟨tags, h⟩ := putScratches_eq t a bs g
  unfold putAll
  rw [h]
  unfold soundSectors
  split
  · exact ⟨tags, t.lm.bad, rfl⟩
  · exact ⟨tags, _, rfl⟩

/-- Noting a write changes the notes alone. -/
theorem leaveBehind_eq (t : CoreTask) (a n path ord : Nat) (own : Bool) (rs : List Nat) : ∃ behind,
    t.leaveBehind a n path ord own rs = { t with lm.behind := behind } := by
  unfold leaveBehind; cases own <;> exact ⟨_, rfl⟩

/-- What a write of the scratchpad can do: its bytes, their tags, the soundness of the sectors it writes whole, and the notes of what
other paths still read. -/
theorem writeScratch_eq (t : CoreTask) (a : Nat) (bs : List Byte) (g : BitVec 4) : ∃ behind tags bad,
    t.writeScratch a bs g =
      { t with lm.scratch := writeBytes t.lm.scratch a bs, lm.behind := behind, lm.tags := tags, lm.bad := bad } := by
  obtain ⟨tags, bad, h⟩ := putAll_eq ((t.pass (fun e => within a bs.length e.addr) fun _ => true).untell (within a bs.length)) a bs g
  exact ⟨_, tags, bad, h⟩

/-- What a command's write of the scratchpad can do: no more. -/
theorem engineWrite_eq (t : CoreTask) (a : Nat) (bs : List Byte) (g : BitVec 4) (path ord : Nat) : ∃ behind tags bad,
    t.engineWrite a bs g path ord =
      { t with lm.scratch := writeBytes t.lm.scratch a bs, lm.behind := behind, lm.tags := tags, lm.bad := bad } := by
  obtain ⟨b, hb⟩ := leaveBehind_eq t a bs.length path ord (path = 3) (engineReaders path)
  unfold engineWrite
  rw [hb]
  obtain ⟨tags, bad, h⟩ := putAll_eq ({ t with lm.behind := b }.untell (within a bs.length)) a bs g
  exact ⟨_, tags, bad, h⟩

theorem writeScratch_wf {t : CoreTask} (h : t.lm.scratch.wf = true) (a : Nat) (bs : List Byte) (g : BitVec 4) :
    (t.writeScratch a bs g).lm.scratch.wf = true := by
  obtain ⟨_, _, _, e⟩ := writeScratch_eq t a bs g
  rw [e]; exact writeBytes_wf h a bs

theorem engineWrite_wf {t : CoreTask} (h : t.lm.scratch.wf = true) (a : Nat) (bs : List Byte) (g : BitVec 4) (path ord : Nat) :
    (t.engineWrite a bs g path ord).lm.scratch.wf = true := by
  obtain ⟨_, _, _, e⟩ := engineWrite_eq t a bs g path ord
  rw [e]; exact writeBytes_wf h a bs

/-- A write that keeps the form keeps it through any list of such writes. -/
theorem foldl_wf {α : Type} (f : CoreTask → α → CoreTask) (hf : ∀ t a, t.lm.scratch.wf = true → (f t a).lm.scratch.wf = true)
    (l : List α) {t : CoreTask} (h : t.lm.scratch.wf = true) : (l.foldl f t).lm.scratch.wf = true := by
  induction l generalizing t with
  | nil => exact h
  | cons a l ih => exact ih (hf t a h)

theorem closeCycle_wf {t : CoreTask} (h : t.lm.scratch.wf = true) : t.closeCycle.lm.scratch.wf = true := by
  have key : ∀ (w : List (PlaneWrite × List Byte)) (u : CoreTask), u.lm.scratch.wf = true →
      (w.foldl (fun t c => ((t.keepOld c.1.addr c.2.length).leaveBehind c.1.addr c.2.length 1 c.1.ord true c.1.readers).putScratches
        c.1.addr c.2 0) u).lm.scratch.wf = true := fun w u hu =>
    foldl_wf _ (fun v c hv => putScratches_wf (by
      obtain ⟨b, hb⟩ := leaveBehind_eq (v.keepOld c.1.addr c.2.length) c.1.addr c.2.length 1 c.1.ord true c.1.readers
      rw [hb]; exact hv) _ _ _) w hu
  have hk := key (runs t.lm.plane) (soundSectors { t with lm.plane := [] } (t.lm.plane.map (·.addr)))
    (by rw [soundSectors_scratch]; exact h)
  unfold closeCycle
  dsimp only
  split <;> exact hk

theorem settleScratch_wf {t : CoreTask} (h : t.lm.scratch.wf = true) : t.settleScratch.lm.scratch.wf = true :=
  foldl_wf _ (fun _ _ hu => writeScratch_wf hu _ _ _) _ (by exact h)

theorem storeScratch_wf {t : CoreTask} (h : t.lm.scratch.wf = true) (a : Nat) (bs : List Byte) :
    (t.storeScratch a bs).lm.scratch.wf = true := by
  obtain ⟨b, hb⟩ := leaveBehind_eq (t.keepOld a bs.length) a bs.length 0 t.pipe.ord true [1, 2, 3, 4]
  unfold storeScratch
  rw [hb]
  obtain ⟨tags, bad, e⟩ := putAll_eq { t.keepOld a bs.length with lm.behind := b } a bs 0
  rw [e]; exact writeBytes_wf (by exact h) a bs

end CoreTask

end Sys2Proof.Machine
end

