-- ==== Sys2Proof/Laws/Tasks.lean ====
section
/-! SUPPORT. Which task is on which core after a turn passes, and after a change of one task. -/

namespace Sys2Proof.Machine.State

theorem taskOn_self (s : State) : s.taskOn s.t.id.core = some s.t := by simp [taskOn, tasks]

theorem taskOn_cons (s : State) (k : Nat) :
    s.taskOn k = if s.t.id.core = k then some s.t else s.rest.find? fun t => t.id.core = k := by
  by_cases h : s.t.id.core = k <;> simp [taskOn, tasks, h]

theorem core_of_taskOn {s : State} {k : Nat} {p : CoreTask} (h : s.taskOn k = some p) : p.id.core = k := by
  simpa using List.find?_some h

theorem find_filter_ne {l : List CoreTask} {j k : Nat} (h : j ≠ k) :
    (l.filter fun t => t.id.core ≠ k).find? (fun t => t.id.core = j) = l.find? fun t => t.id.core = j := by
  induction l with
  | nil => rfl
  | cons a l ih =>
    by_cases ha : a.id.core = k
    · have : a.id.core ≠ j := by omega
      simp_all
    · by_cases hj : a.id.core = j <;> simp_all

/-- The turn passes to a core that holds a task: that task comes to the front. -/
theorem switchTo_t {s : State} {k : Nat} {p : CoreTask} (h : s.taskOn k = some p) : (s.switchTo k).t = p := by
  rw [taskOn_cons] at h
  unfold switchTo
  by_cases hk : s.t.id.core = k
  · simpa [hk] using h
  · rw [if_neg hk] at h
    rw [if_neg hk, h]

/-- No core's task changes when the turn passes. -/
theorem taskOn_switchTo {s : State} {k : Nat} {p : CoreTask} (h : s.taskOn k = some p) (j : Nat) :
    (s.switchTo k).taskOn j = s.taskOn j := by
  by_cases hk : s.t.id.core = k
  · simp [switchTo, hk]
  · have hp := core_of_taskOn h
    have h1 : s.rest.find? (fun t => t.id.core = k) = some p := by rwa [taskOn_cons, if_neg hk] at h
    by_cases hj : j = k
    · subst hj
      rw [h, taskOn_cons, switchTo_t h, if_pos hp]
    · have h2 : s.switchTo k = { s with t := p, rest := s.t :: s.rest.filter fun t => t.id.core ≠ k } := by
        unfold switchTo; rw [if_neg hk, h1]
      rw [h2, taskOn_cons, taskOn_cons, if_neg (by simp only; omega), List.find?_cons]
      by_cases hs : s.t.id.core = j
      · simp [hs]
      · simp only [hs, decide_false, if_false]
        exact find_filter_ne hj

/-- What passing the turn leaves alone. -/
theorem switchTo_frame (s : State) (k : Nat) : (s.switchTo k).mem = s.mem ∧ (s.switchTo k).md = s.md ∧
    (s.switchTo k).exe = s.exe ∧ (s.switchTo k).net = s.net ∧ (s.switchTo k).dbg = s.dbg ∧ (s.switchTo k).now = s.now ∧
    (s.switchTo k).agenda = s.agenda ∧ (s.switchTo k).timeOff = s.timeOff := by
  unfold switchTo
  split
  · simp
  · split <;> simp

/-- A change of the current task changes the task of its core alone. -/
theorem taskOn_onT {s : State} {f : CoreTask → CoreTask} (hf : (f s.t).id.core = s.t.id.core) (j : Nat) :
    (s.onT f).taskOn j = if s.t.id.core = j then some (f s.t) else s.taskOn j := by
  rw [taskOn_cons]
  by_cases hj : s.t.id.core = j
  · simp [onT, hf, hj]
  · rw [taskOn_cons]; simp [onT, hf, hj]

/-- Acting for a core: what its function makes of the core's task, and no other core's. -/
theorem taskOn_atCore {s : State} {k : Nat} {p q : CoreTask} {g : State → State} (h : s.taskOn k = some p)
    (hk : (g (s.switchTo k)).taskOn k = some q)
    (ho : ∀ j, j ≠ k → (g (s.switchTo k)).taskOn j = (s.switchTo k).taskOn j) (j : Nat) :
    (s.atCore k g).taskOn j = if j = k then some q else s.taskOn j := by
  have hc : ∃ r, (g (s.switchTo k)).taskOn s.t.id.core = some r := by
    by_cases e : s.t.id.core = k
    · exact ⟨q, by rw [e]; exact hk⟩
    · exact ⟨s.t, by rw [ho _ e, taskOn_switchTo h, taskOn_self]⟩
  obtain ⟨r, hr⟩ := hc
  have h1 : s.atCore k g = (g (s.switchTo k)).switchTo s.t.id.core := by unfold atCore; rw [h]
  rw [h1, taskOn_switchTo hr]
  by_cases e : j = k
  · subst e; simp [hk]
  · rw [ho j e, taskOn_switchTo h]; simp [e]

/-- Acting on a core's task alone. -/
theorem taskOn_atCore_onT {s : State} {k : Nat} {p : CoreTask} {f : CoreTask → CoreTask} (h : s.taskOn k = some p)
    (hf : (f p).id.core = k) (j : Nat) :
    (s.atCore k (·.onT f)).taskOn j = if j = k then some (f p) else s.taskOn j := by
  have ht := switchTo_t h
  have hp := core_of_taskOn h
  have e : (f (s.switchTo k).t).id.core = (s.switchTo k).t.id.core := by rw [ht, hf, hp]
  apply taskOn_atCore h
  · rw [taskOn_onT e, ht, if_pos hp]
  · intro j hj
    rw [taskOn_onT e, ht, if_neg (by omega)]

end Sys2Proof.Machine.State
end

