-- ==== Sys2Proof/Laws/Canonical.lean ====
section
/-! SUPPORT. The canonical form of every memory, kept by the operations that move tasks and change one of them. -/

namespace Sys2Proof.Machine.State

open Sys2Proof.Safety

theorem canonical_reset : MemoryCanonical State.reset := by
  refine ⟨rfl, rfl, rfl, fun t h => ?_⟩
  have : t = CoreTask.empty 0 := by simpa [State.reset, tasks] using h
  subst this; rfl

theorem canonical_task {s : State} (h : MemoryCanonical s) : s.t.lm.scratch.wf = true := h.2.2.2 _ (by simp [tasks])

theorem canonical_onT {s : State} {f : CoreTask → CoreTask} (h : MemoryCanonical s)
    (hf : s.t.lm.scratch.wf = true → (f s.t).lm.scratch.wf = true) : MemoryCanonical (s.onT f) := by
  refine ⟨h.1, h.2.1, h.2.2.1, fun t ht => ?_⟩
  have h2 := h.2.2.2
  simp only [onT, tasks, List.cons_append, List.mem_cons] at ht
  rcases ht with e | ht
  · subst e; exact hf (canonical_task h)
  · exact h2 t (by simp only [tasks, List.cons_append, List.mem_cons]; exact .inr ht)

theorem canonical_onCore {s : State} {k : Nat} {f : CoreTask → CoreTask} (h : MemoryCanonical s)
    (hf : ∀ t : CoreTask, t.lm.scratch.wf = true → (f t).lm.scratch.wf = true) : MemoryCanonical (s.onCore k f) := by
  unfold onCore
  split
  · exact canonical_onT h (hf _)
  · refine ⟨h.1, h.2.1, h.2.2.1, fun t ht => ?_⟩
    have h2 := h.2.2.2
    simp only [tasks, List.cons_append, List.mem_cons, List.mem_append, List.mem_map] at ht h2
    rcases ht with e | (⟨u, hu, e⟩ | ht) | ht
    · subst e; exact h2 _ (.inl rfl)
    · subst e
      split
      · exact hf u (h2 u (.inr (.inl (.inl hu))))
      · exact h2 u (.inr (.inl (.inl hu)))
    · exact h2 t (.inr (.inl (.inr ht)))
    · exact h2 t (.inr (.inr ht))

theorem canonical_switchTo {s : State} (h : MemoryCanonical s) (k : Nat) : MemoryCanonical (s.switchTo k) := by
  have h2 := h.2.2.2
  simp only [tasks, List.cons_append, List.mem_cons, List.mem_append] at h2
  unfold switchTo
  split
  · exact h
  · split
    · rename_i t hf
      refine ⟨h.1, h.2.1, h.2.2.1, fun u hu => ?_⟩
      simp only [tasks, List.cons_append, List.mem_cons, List.mem_append, List.mem_filter] at hu
      rcases hu with e | e | (hu | hu) | hu
      · subst e; exact h2 _ (.inr (.inl (.inl (List.mem_of_find?_eq_some hf))))
      · subst e; exact h2 _ (.inl rfl)
      · exact h2 u (.inr (.inl (.inl hu.1)))
      · exact h2 u (.inr (.inl (.inr hu)))
      · exact h2 u (.inr (.inr hu))
    · refine ⟨h.1, h.2.1, h.2.2.1, fun u hu => ?_⟩
      simp only [tasks, List.cons_append, List.mem_cons, List.mem_append] at hu
      rcases hu with e | e | (hu | hu) | hu
      · subst e; rfl
      · subst e; exact h2 _ (.inl rfl)
      · exact h2 u (.inr (.inl (.inl hu)))
      · exact h2 u (.inr (.inl (.inr hu)))
      · exact h2 u (.inr (.inr hu))

theorem canonical_atCore {s : State} {k : Nat} {g : State → State} (h : MemoryCanonical s)
    (hg : ∀ u, MemoryCanonical u → MemoryCanonical (g u)) : MemoryCanonical (s.atCore k g) := by
  unfold atCore
  split
  · exact canonical_switchTo (hg _ (canonical_switchTo h k)) _
  · exact h

theorem canonical_physWrite {s : State} (h : MemoryCanonical s) (key : BitVec 512) (pa : Nat) (bs : List Byte) :
    MemoryCanonical (s.physWrite key pa bs) := by
  obtain ⟨p, g, b, c, e, hp⟩ := physWrite_frame s key pa bs
  rw [e]
  exact ⟨hp h.1, h.2.1, h.2.2.1, h.2.2.2⟩

theorem canonical_foldl {α : Type} {g : State → α → State} (hg : ∀ u a, MemoryCanonical u → MemoryCanonical (g u a))
    (l : List α) {s : State} (h : MemoryCanonical s) : MemoryCanonical (l.foldl g s) := by
  induction l generalizing s with
  | nil => exact h
  | cons a l ih => exact ih (hg _ _ h)

end Sys2Proof.Machine.State
end

