-- ==== Sys2Proof/Laws/State.lean ====
section
/-! SUPPORT. One lemma for each field of a record that an update of the task or of the module leaves alone or sets. -/

namespace Sys2Proof.Machine

/-! ## The module's updates -/
@[simp] theorem State.onT_t (s : State) (f : CoreTask → CoreTask) : (s.onT f).t = f s.t := rfl
@[simp] theorem State.onT_rest (s : State) (f : CoreTask → CoreTask) : (s.onT f).rest = s.rest := rfl
@[simp] theorem State.onT_agenda (s : State) (f : CoreTask → CoreTask) : (s.onT f).agenda = s.agenda := rfl
@[simp] theorem State.onT_now (s : State) (f : CoreTask → CoreTask) : (s.onT f).now = s.now := rfl
@[simp] theorem State.onT_timeOff (s : State) (f : CoreTask → CoreTask) : (s.onT f).timeOff = s.timeOff := rfl
@[simp] theorem State.onT_mem (s : State) (f : CoreTask → CoreTask) : (s.onT f).mem = s.mem := rfl
@[simp] theorem State.onT_md (s : State) (f : CoreTask → CoreTask) : (s.onT f).md = s.md := rfl
@[simp] theorem State.onT_exe (s : State) (f : CoreTask → CoreTask) : (s.onT f).exe = s.exe := rfl
@[simp] theorem State.onT_net (s : State) (f : CoreTask → CoreTask) : (s.onT f).net = s.net := rfl
@[simp] theorem State.onT_dbg (s : State) (f : CoreTask → CoreTask) : (s.onT f).dbg = s.dbg := rfl

@[simp] theorem State.setCtx_t (s : State) (x : Nat) (f : Ctx → Ctx) : (s.setCtx x f).t = s.t := rfl
@[simp] theorem State.setCtx_rest (s : State) (x : Nat) (f : Ctx → Ctx) : (s.setCtx x f).rest = s.rest := rfl
@[simp] theorem State.setCtx_agenda (s : State) (x : Nat) (f : Ctx → Ctx) : (s.setCtx x f).agenda = s.agenda := rfl
@[simp] theorem State.setCtx_now (s : State) (x : Nat) (f : Ctx → Ctx) : (s.setCtx x f).now = s.now := rfl
@[simp] theorem State.setCtx_timeOff (s : State) (x : Nat) (f : Ctx → Ctx) : (s.setCtx x f).timeOff = s.timeOff := rfl
@[simp] theorem State.setCtx_mem (s : State) (x : Nat) (f : Ctx → Ctx) : (s.setCtx x f).mem = s.mem := rfl
@[simp] theorem State.setCtx_md (s : State) (x : Nat) (f : Ctx → Ctx) : (s.setCtx x f).md = s.md := rfl
@[simp] theorem State.setCtx_net (s : State) (x : Nat) (f : Ctx → Ctx) : (s.setCtx x f).net = s.net := rfl
@[simp] theorem State.setCtx_dbg (s : State) (x : Nat) (f : Ctx → Ctx) : (s.setCtx x f).dbg = s.dbg := rfl

@[simp] theorem State.setQueue_t (s : State) (q : Nat) (f : Queue → Queue) : (s.setQueue q f).t = s.t := rfl
@[simp] theorem State.setQueue_rest (s : State) (q : Nat) (f : Queue → Queue) : (s.setQueue q f).rest = s.rest := rfl
@[simp] theorem State.setQueue_agenda (s : State) (q : Nat) (f : Queue → Queue) : (s.setQueue q f).agenda = s.agenda := rfl
@[simp] theorem State.setQueue_now (s : State) (q : Nat) (f : Queue → Queue) : (s.setQueue q f).now = s.now := rfl
@[simp] theorem State.setQueue_timeOff (s : State) (q : Nat) (f : Queue → Queue) : (s.setQueue q f).timeOff = s.timeOff := rfl
@[simp] theorem State.setQueue_mem (s : State) (q : Nat) (f : Queue → Queue) : (s.setQueue q f).mem = s.mem := rfl
@[simp] theorem State.setQueue_md (s : State) (q : Nat) (f : Queue → Queue) : (s.setQueue q f).md = s.md := rfl
@[simp] theorem State.setQueue_net (s : State) (q : Nat) (f : Queue → Queue) : (s.setQueue q f).net = s.net := rfl
@[simp] theorem State.setQueue_dbg (s : State) (q : Nat) (f : Queue → Queue) : (s.setQueue q f).dbg = s.dbg := rfl

@[simp] theorem State.setLink_t (s : State) (l : Nat) (f : Link → Link) : (s.setLink l f).t = s.t := rfl
@[simp] theorem State.setLink_rest (s : State) (l : Nat) (f : Link → Link) : (s.setLink l f).rest = s.rest := rfl
@[simp] theorem State.setLink_agenda (s : State) (l : Nat) (f : Link → Link) : (s.setLink l f).agenda = s.agenda := rfl
@[simp] theorem State.setLink_now (s : State) (l : Nat) (f : Link → Link) : (s.setLink l f).now = s.now := rfl
@[simp] theorem State.setLink_timeOff (s : State) (l : Nat) (f : Link → Link) : (s.setLink l f).timeOff = s.timeOff := rfl
@[simp] theorem State.setLink_mem (s : State) (l : Nat) (f : Link → Link) : (s.setLink l f).mem = s.mem := rfl
@[simp] theorem State.setLink_md (s : State) (l : Nat) (f : Link → Link) : (s.setLink l f).md = s.md := rfl
@[simp] theorem State.setLink_exe (s : State) (l : Nat) (f : Link → Link) : (s.setLink l f).exe = s.exe := rfl
@[simp] theorem State.setLink_dbg (s : State) (l : Nat) (f : Link → Link) : (s.setLink l f).dbg = s.dbg := rfl

@[simp] theorem State.setLaunch_t (s : State) (k : Nat) (f : Launch → Launch) : (s.setLaunch k f).t = s.t := rfl
@[simp] theorem State.setLaunch_rest (s : State) (k : Nat) (f : Launch → Launch) : (s.setLaunch k f).rest = s.rest := rfl
@[simp] theorem State.setLaunch_agenda (s : State) (k : Nat) (f : Launch → Launch) : (s.setLaunch k f).agenda = s.agenda := rfl
@[simp] theorem State.setLaunch_now (s : State) (k : Nat) (f : Launch → Launch) : (s.setLaunch k f).now = s.now := rfl
@[simp] theorem State.setLaunch_timeOff (s : State) (k : Nat) (f : Launch → Launch) : (s.setLaunch k f).timeOff = s.timeOff := rfl
@[simp] theorem State.setLaunch_mem (s : State) (k : Nat) (f : Launch → Launch) : (s.setLaunch k f).mem = s.mem := rfl
@[simp] theorem State.setLaunch_md (s : State) (k : Nat) (f : Launch → Launch) : (s.setLaunch k f).md = s.md := rfl
@[simp] theorem State.setLaunch_net (s : State) (k : Nat) (f : Launch → Launch) : (s.setLaunch k f).net = s.net := rfl
@[simp] theorem State.setLaunch_dbg (s : State) (k : Nat) (f : Launch → Launch) : (s.setLaunch k f).dbg = s.dbg := rfl

@[simp] theorem State.setHome_t (s : State) (k : Nat) (p : Nat × Nat) : (s.setHome k p).t = s.t := rfl
@[simp] theorem State.setHome_rest (s : State) (k : Nat) (p : Nat × Nat) : (s.setHome k p).rest = s.rest := rfl
@[simp] theorem State.setHome_agenda (s : State) (k : Nat) (p : Nat × Nat) : (s.setHome k p).agenda = s.agenda := rfl
@[simp] theorem State.setHome_now (s : State) (k : Nat) (p : Nat × Nat) : (s.setHome k p).now = s.now := rfl
@[simp] theorem State.setHome_timeOff (s : State) (k : Nat) (p : Nat × Nat) : (s.setHome k p).timeOff = s.timeOff := rfl
@[simp] theorem State.setHome_md (s : State) (k : Nat) (p : Nat × Nat) : (s.setHome k p).md = s.md := rfl
@[simp] theorem State.setHome_exe (s : State) (k : Nat) (p : Nat × Nat) : (s.setHome k p).exe = s.exe := rfl
@[simp] theorem State.setHome_net (s : State) (k : Nat) (p : Nat × Nat) : (s.setHome k p).net = s.net := rfl
@[simp] theorem State.setHome_dbg (s : State) (k : Nat) (p : Nat × Nat) : (s.setHome k p).dbg = s.dbg := rfl

@[simp] theorem State.setMile_t (s : State) (k : Nat) (m : Milestone) : (s.setMile k m).t = s.t := rfl
@[simp] theorem State.setMile_rest (s : State) (k : Nat) (m : Milestone) : (s.setMile k m).rest = s.rest := rfl
@[simp] theorem State.setMile_agenda (s : State) (k : Nat) (m : Milestone) : (s.setMile k m).agenda = s.agenda := rfl
@[simp] theorem State.setMile_now (s : State) (k : Nat) (m : Milestone) : (s.setMile k m).now = s.now := rfl
@[simp] theorem State.setMile_timeOff (s : State) (k : Nat) (m : Milestone) : (s.setMile k m).timeOff = s.timeOff := rfl
@[simp] theorem State.setMile_md (s : State) (k : Nat) (m : Milestone) : (s.setMile k m).md = s.md := rfl
@[simp] theorem State.setMile_exe (s : State) (k : Nat) (m : Milestone) : (s.setMile k m).exe = s.exe := rfl
@[simp] theorem State.setMile_net (s : State) (k : Nat) (m : Milestone) : (s.setMile k m).net = s.net := rfl
@[simp] theorem State.setMile_dbg (s : State) (k : Nat) (m : Milestone) : (s.setMile k m).dbg = s.dbg := rfl

@[simp] theorem State.fillTlb_t (s : State) (k : Nat) (l : Leaf) : (s.fillTlb k l).t = s.t := rfl
@[simp] theorem State.fillTlb_rest (s : State) (k : Nat) (l : Leaf) : (s.fillTlb k l).rest = s.rest := rfl
@[simp] theorem State.fillTlb_agenda (s : State) (k : Nat) (l : Leaf) : (s.fillTlb k l).agenda = s.agenda := rfl
@[simp] theorem State.fillTlb_now (s : State) (k : Nat) (l : Leaf) : (s.fillTlb k l).now = s.now := rfl
@[simp] theorem State.fillTlb_timeOff (s : State) (k : Nat) (l : Leaf) : (s.fillTlb k l).timeOff = s.timeOff := rfl
@[simp] theorem State.fillTlb_md (s : State) (k : Nat) (l : Leaf) : (s.fillTlb k l).md = s.md := rfl
@[simp] theorem State.fillTlb_exe (s : State) (k : Nat) (l : Leaf) : (s.fillTlb k l).exe = s.exe := rfl
@[simp] theorem State.fillTlb_net (s : State) (k : Nat) (l : Leaf) : (s.fillTlb k l).net = s.net := rfl
@[simp] theorem State.fillTlb_dbg (s : State) (k : Nat) (l : Leaf) : (s.fillTlb k l).dbg = s.dbg := rfl

@[simp] theorem State.result_t (s : State) (x : Nat) (r : BitVec 3) : (s.result x r).t = s.t := rfl
@[simp] theorem State.result_rest (s : State) (x : Nat) (r : BitVec 3) : (s.result x r).rest = s.rest := rfl
@[simp] theorem State.result_agenda (s : State) (x : Nat) (r : BitVec 3) : (s.result x r).agenda = s.agenda := rfl
@[simp] theorem State.result_now (s : State) (x : Nat) (r : BitVec 3) : (s.result x r).now = s.now := rfl
@[simp] theorem State.result_timeOff (s : State) (x : Nat) (r : BitVec 3) : (s.result x r).timeOff = s.timeOff := rfl
@[simp] theorem State.result_mem (s : State) (x : Nat) (r : BitVec 3) : (s.result x r).mem = s.mem := rfl
@[simp] theorem State.result_md (s : State) (x : Nat) (r : BitVec 3) : (s.result x r).md = s.md := rfl
@[simp] theorem State.result_net (s : State) (x : Nat) (r : BitVec 3) : (s.result x r).net = s.net := rfl
@[simp] theorem State.result_dbg (s : State) (x : Nat) (r : BitVec 3) : (s.result x r).dbg = s.dbg := rfl

/-- An update of the tasks alone. -/
@[simp] theorem State.onTasks_agenda (s : State) (p : CoreTask → Bool) (f : CoreTask → CoreTask) : (s.onTasks p f).agenda = s.agenda := rfl
@[simp] theorem State.onTasks_now (s : State) (p : CoreTask → Bool) (f : CoreTask → CoreTask) : (s.onTasks p f).now = s.now := rfl
@[simp] theorem State.onTasks_timeOff (s : State) (p : CoreTask → Bool) (f : CoreTask → CoreTask) : (s.onTasks p f).timeOff = s.timeOff := rfl
@[simp] theorem State.onTasks_mem (s : State) (p : CoreTask → Bool) (f : CoreTask → CoreTask) : (s.onTasks p f).mem = s.mem := rfl
@[simp] theorem State.onTasks_md (s : State) (p : CoreTask → Bool) (f : CoreTask → CoreTask) : (s.onTasks p f).md = s.md := rfl
@[simp] theorem State.onTasks_exe (s : State) (p : CoreTask → Bool) (f : CoreTask → CoreTask) : (s.onTasks p f).exe = s.exe := rfl
@[simp] theorem State.onTasks_net (s : State) (p : CoreTask → Bool) (f : CoreTask → CoreTask) : (s.onTasks p f).net = s.net := rfl
@[simp] theorem State.onTasks_dbg (s : State) (p : CoreTask → Bool) (f : CoreTask → CoreTask) : (s.onTasks p f).dbg = s.dbg := rfl

@[simp] theorem State.onCore_agenda (s : State) (k : Nat) (f : CoreTask → CoreTask) : (s.onCore k f).agenda = s.agenda := by
  unfold State.onCore; split <;> rfl
@[simp] theorem State.onCore_now (s : State) (k : Nat) (f : CoreTask → CoreTask) : (s.onCore k f).now = s.now := by
  unfold State.onCore; split <;> rfl
@[simp] theorem State.onCore_timeOff (s : State) (k : Nat) (f : CoreTask → CoreTask) : (s.onCore k f).timeOff = s.timeOff := by
  unfold State.onCore; split <;> rfl
@[simp] theorem State.onCore_mem (s : State) (k : Nat) (f : CoreTask → CoreTask) : (s.onCore k f).mem = s.mem := by
  unfold State.onCore; split <;> rfl
@[simp] theorem State.onCore_md (s : State) (k : Nat) (f : CoreTask → CoreTask) : (s.onCore k f).md = s.md := by
  unfold State.onCore; split <;> rfl
@[simp] theorem State.onCore_exe (s : State) (k : Nat) (f : CoreTask → CoreTask) : (s.onCore k f).exe = s.exe := by
  unfold State.onCore; split <;> rfl
@[simp] theorem State.onCore_net (s : State) (k : Nat) (f : CoreTask → CoreTask) : (s.onCore k f).net = s.net := by
  unfold State.onCore; split <;> rfl
@[simp] theorem State.onCore_dbg (s : State) (k : Nat) (f : CoreTask → CoreTask) : (s.onCore k f).dbg = s.dbg := by
  unfold State.onCore; split <;> rfl
@[simp] theorem State.switchTo_agenda (s : State) (k : Nat) : (s.switchTo k).agenda = s.agenda := by
  unfold State.switchTo; repeat' split
  all_goals rfl
@[simp] theorem State.switchTo_now (s : State) (k : Nat) : (s.switchTo k).now = s.now := by
  unfold State.switchTo; repeat' split
  all_goals rfl
@[simp] theorem State.switchTo_timeOff (s : State) (k : Nat) : (s.switchTo k).timeOff = s.timeOff := by
  unfold State.switchTo; repeat' split
  all_goals rfl
@[simp] theorem State.switchTo_mem (s : State) (k : Nat) : (s.switchTo k).mem = s.mem := by
  unfold State.switchTo; repeat' split
  all_goals rfl
@[simp] theorem State.switchTo_md (s : State) (k : Nat) : (s.switchTo k).md = s.md := by
  unfold State.switchTo; repeat' split
  all_goals rfl
@[simp] theorem State.switchTo_exe (s : State) (k : Nat) : (s.switchTo k).exe = s.exe := by
  unfold State.switchTo; repeat' split
  all_goals rfl
@[simp] theorem State.switchTo_net (s : State) (k : Nat) : (s.switchTo k).net = s.net := by
  unfold State.switchTo; repeat' split
  all_goals rfl
@[simp] theorem State.switchTo_dbg (s : State) (k : Nat) : (s.switchTo k).dbg = s.dbg := by
  unfold State.switchTo; repeat' split
  all_goals rfl

/-- A context's own counter changes nothing outside the executive. -/
@[simp] theorem State.count_t (s : State) (x n k : Nat) : (s.count x n k).t = s.t := by
  unfold State.count; split <;> rfl
@[simp] theorem State.count_rest (s : State) (x n k : Nat) : (s.count x n k).rest = s.rest := by
  unfold State.count; split <;> rfl
@[simp] theorem State.count_agenda (s : State) (x n k : Nat) : (s.count x n k).agenda = s.agenda := by
  unfold State.count; split <;> rfl
@[simp] theorem State.count_now (s : State) (x n k : Nat) : (s.count x n k).now = s.now := by
  unfold State.count; split <;> rfl
@[simp] theorem State.count_timeOff (s : State) (x n k : Nat) : (s.count x n k).timeOff = s.timeOff := by
  unfold State.count; split <;> rfl
@[simp] theorem State.count_mem (s : State) (x n k : Nat) : (s.count x n k).mem = s.mem := by
  unfold State.count; split <;> rfl
@[simp] theorem State.count_md (s : State) (x n k : Nat) : (s.count x n k).md = s.md := by
  unfold State.count; split <;> rfl
@[simp] theorem State.count_net (s : State) (x n k : Nat) : (s.count x n k).net = s.net := by
  unfold State.count; split <;> rfl
@[simp] theorem State.count_dbg (s : State) (x n k : Nat) : (s.count x n k).dbg = s.dbg := by
  unfold State.count; split <;> rfl

/-! ## The task's updates -/

namespace CoreTask

@[simp] theorem onBank_id (t : CoreTask) (k : Nat) (f : Bank → Bank) : (t.onBank k f).id = t.id := by
  unfold onBank; repeat' split
  all_goals rfl
@[simp] theorem onBank_code (t : CoreTask) (k : Nat) (f : Bank → Bank) : (t.onBank k f).code = t.code := by
  unfold onBank; repeat' split
  all_goals rfl
@[simp] theorem onBank_pipe (t : CoreTask) (k : Nat) (f : Bank → Bank) : (t.onBank k f).pipe = t.pipe := by
  unfold onBank; repeat' split
  all_goals rfl
@[simp] theorem onBank_lm (t : CoreTask) (k : Nat) (f : Bank → Bank) : (t.onBank k f).lm = t.lm := by
  unfold onBank; repeat' split
  all_goals rfl
@[simp] theorem onBank_eng (t : CoreTask) (k : Nat) (f : Bank → Bank) : (t.onBank k f).eng = t.eng := by
  unfold onBank; repeat' split
  all_goals rfl
@[simp] theorem onBank_ctl (t : CoreTask) (k : Nat) (f : Bank → Bank) : (t.onBank k f).ctl = t.ctl := by
  unfold onBank; repeat' split
  all_goals rfl
@[simp] theorem onBank_held (t : CoreTask) (k : Nat) (f : Bank → Bank) : (t.onBank k f).held = t.held := by
  unfold onBank; repeat' split
  all_goals rfl

@[simp] theorem setSReg_id (t : CoreTask) (k : Nat) (r : SReg) (v : Word) : (t.setSReg k r v).id = t.id := by
  unfold setSReg; repeat' split
  all_goals simp
@[simp] theorem setSReg_code (t : CoreTask) (k : Nat) (r : SReg) (v : Word) : (t.setSReg k r v).code = t.code := by
  unfold setSReg; repeat' split
  all_goals simp
@[simp] theorem setSReg_pipe (t : CoreTask) (k : Nat) (r : SReg) (v : Word) : (t.setSReg k r v).pipe = t.pipe := by
  unfold setSReg; repeat' split
  all_goals simp
@[simp] theorem setSReg_lm (t : CoreTask) (k : Nat) (r : SReg) (v : Word) : (t.setSReg k r v).lm = t.lm := by
  unfold setSReg; repeat' split
  all_goals simp
@[simp] theorem setSReg_eng (t : CoreTask) (k : Nat) (r : SReg) (v : Word) : (t.setSReg k r v).eng = t.eng := by
  unfold setSReg; repeat' split
  all_goals simp
@[simp] theorem setSReg_ctl (t : CoreTask) (k : Nat) (r : SReg) (v : Word) : (t.setSReg k r v).ctl = t.ctl := by
  unfold setSReg; repeat' split
  all_goals simp
@[simp] theorem setSReg_held (t : CoreTask) (k : Nat) (r : SReg) (v : Word) : (t.setSReg k r v).held = t.held := by
  unfold setSReg; repeat' split
  all_goals simp

@[simp] theorem setLatch_id (t : CoreTask) (k : Nat) (l : Latch) (v : Word) : (t.setLatch k l v).id = t.id := by
  unfold setLatch; repeat' split
  all_goals simp
@[simp] theorem setLatch_code (t : CoreTask) (k : Nat) (l : Latch) (v : Word) : (t.setLatch k l v).code = t.code := by
  unfold setLatch; repeat' split
  all_goals simp
@[simp] theorem setLatch_pipe (t : CoreTask) (k : Nat) (l : Latch) (v : Word) : (t.setLatch k l v).pipe = t.pipe := by
  unfold setLatch; repeat' split
  all_goals simp
@[simp] theorem setLatch_lm (t : CoreTask) (k : Nat) (l : Latch) (v : Word) : (t.setLatch k l v).lm = t.lm := by
  unfold setLatch; repeat' split
  all_goals simp
@[simp] theorem setLatch_eng (t : CoreTask) (k : Nat) (l : Latch) (v : Word) : (t.setLatch k l v).eng = t.eng := by
  unfold setLatch; repeat' split
  all_goals simp
@[simp] theorem setLatch_ctl (t : CoreTask) (k : Nat) (l : Latch) (v : Word) : (t.setLatch k l v).ctl = t.ctl := by
  unfold setLatch; repeat' split
  all_goals simp
@[simp] theorem setLatch_held (t : CoreTask) (k : Nat) (l : Latch) (v : Word) : (t.setLatch k l v).held = t.held := by
  unfold setLatch; repeat' split
  all_goals simp

@[simp] theorem setPred_id (t : CoreTask) (k : Nat) (p : Fin 8) (v : Bool) : (t.setPred k p v).id = t.id := by
  unfold setPred; repeat' split
  all_goals simp
@[simp] theorem setPred_code (t : CoreTask) (k : Nat) (p : Fin 8) (v : Bool) : (t.setPred k p v).code = t.code := by
  unfold setPred; repeat' split
  all_goals simp
@[simp] theorem setPred_pipe (t : CoreTask) (k : Nat) (p : Fin 8) (v : Bool) : (t.setPred k p v).pipe = t.pipe := by
  unfold setPred; repeat' split
  all_goals simp
@[simp] theorem setPred_lm (t : CoreTask) (k : Nat) (p : Fin 8) (v : Bool) : (t.setPred k p v).lm = t.lm := by
  unfold setPred; repeat' split
  all_goals simp
@[simp] theorem setPred_eng (t : CoreTask) (k : Nat) (p : Fin 8) (v : Bool) : (t.setPred k p v).eng = t.eng := by
  unfold setPred; repeat' split
  all_goals simp
@[simp] theorem setPred_ctl (t : CoreTask) (k : Nat) (p : Fin 8) (v : Bool) : (t.setPred k p v).ctl = t.ctl := by
  unfold setPred; repeat' split
  all_goals simp
@[simp] theorem setPred_held (t : CoreTask) (k : Nat) (p : Fin 8) (v : Bool) : (t.setPred k p v).held = t.held := by
  unfold setPred; repeat' split
  all_goals simp

@[simp] theorem setRow_id (t : CoreTask) (k : Nat) (d : RowAt) (v : Row) : (t.setRow k d v).id = t.id := by
  unfold setRow; repeat' split
  all_goals simp
@[simp] theorem setRow_code (t : CoreTask) (k : Nat) (d : RowAt) (v : Row) : (t.setRow k d v).code = t.code := by
  unfold setRow; repeat' split
  all_goals simp
@[simp] theorem setRow_pipe (t : CoreTask) (k : Nat) (d : RowAt) (v : Row) : (t.setRow k d v).pipe = t.pipe := by
  unfold setRow; repeat' split
  all_goals simp
@[simp] theorem setRow_lm (t : CoreTask) (k : Nat) (d : RowAt) (v : Row) : (t.setRow k d v).lm = t.lm := by
  unfold setRow; repeat' split
  all_goals simp
@[simp] theorem setRow_eng (t : CoreTask) (k : Nat) (d : RowAt) (v : Row) : (t.setRow k d v).eng = t.eng := by
  unfold setRow; repeat' split
  all_goals simp
@[simp] theorem setRow_ctl (t : CoreTask) (k : Nat) (d : RowAt) (v : Row) : (t.setRow k d v).ctl = t.ctl := by
  unfold setRow; repeat' split
  all_goals simp
@[simp] theorem setRow_held (t : CoreTask) (k : Nat) (d : RowAt) (v : Row) : (t.setRow k d v).held = t.held := by
  unfold setRow; repeat' split
  all_goals simp

@[simp] theorem setStage_id (t : CoreTask) (r : Stage) (v : Word) : (t.setStage r v).id = t.id := by
  unfold setStage; repeat' split
  all_goals simp
@[simp] theorem setStage_code (t : CoreTask) (r : Stage) (v : Word) : (t.setStage r v).code = t.code := by
  unfold setStage; repeat' split
  all_goals simp
@[simp] theorem setStage_pipe (t : CoreTask) (r : Stage) (v : Word) : (t.setStage r v).pipe = t.pipe := by
  unfold setStage; repeat' split
  all_goals simp
@[simp] theorem setStage_lm (t : CoreTask) (r : Stage) (v : Word) : (t.setStage r v).lm = t.lm := by
  unfold setStage; repeat' split
  all_goals simp
@[simp] theorem setStage_eng (t : CoreTask) (r : Stage) (v : Word) : (t.setStage r v).eng = t.eng := by
  unfold setStage; repeat' split
  all_goals simp
@[simp] theorem setStage_ctl (t : CoreTask) (r : Stage) (v : Word) : (t.setStage r v).ctl = t.ctl := by
  unfold setStage; repeat' split
  all_goals simp
@[simp] theorem setStage_held (t : CoreTask) (r : Stage) (v : Word) : (t.setStage r v).held = t.held := by
  unfold setStage; repeat' split
  all_goals simp

@[simp] theorem addCtr_id (t : CoreTask) (n k : Nat) : (t.addCtr n k).id = t.id := rfl
@[simp] theorem addCtr_code (t : CoreTask) (n k : Nat) : (t.addCtr n k).code = t.code := rfl
@[simp] theorem addCtr_pipe (t : CoreTask) (n k : Nat) : (t.addCtr n k).pipe = t.pipe := rfl
@[simp] theorem addCtr_lm (t : CoreTask) (n k : Nat) : (t.addCtr n k).lm = t.lm := rfl
@[simp] theorem addCtr_eng (t : CoreTask) (n k : Nat) : (t.addCtr n k).eng = t.eng := rfl
@[simp] theorem addCtr_ctl (t : CoreTask) (n k : Nat) : (t.addCtr n k).ctl = t.ctl := rfl
@[simp] theorem addCtr_held (t : CoreTask) (n k : Nat) : (t.addCtr n k).held = t.held := rfl

@[simp] theorem subCtr_id (t : CoreTask) (n k : Nat) : (t.subCtr n k).id = t.id := rfl
@[simp] theorem subCtr_code (t : CoreTask) (n k : Nat) : (t.subCtr n k).code = t.code := rfl
@[simp] theorem subCtr_pipe (t : CoreTask) (n k : Nat) : (t.subCtr n k).pipe = t.pipe := rfl
@[simp] theorem subCtr_lm (t : CoreTask) (n k : Nat) : (t.subCtr n k).lm = t.lm := rfl
@[simp] theorem subCtr_eng (t : CoreTask) (n k : Nat) : (t.subCtr n k).eng = t.eng := rfl
@[simp] theorem subCtr_ctl (t : CoreTask) (n k : Nat) : (t.subCtr n k).ctl = t.ctl := rfl
@[simp] theorem subCtr_held (t : CoreTask) (n k : Nat) : (t.subCtr n k).held = t.held := rfl

@[simp] theorem setLfsr_id (t : CoreTask) (k : Nat) (v : BitVec 32) : (t.setLfsr k v).id = t.id := rfl
@[simp] theorem setLfsr_code (t : CoreTask) (k : Nat) (v : BitVec 32) : (t.setLfsr k v).code = t.code := rfl
@[simp] theorem setLfsr_pipe (t : CoreTask) (k : Nat) (v : BitVec 32) : (t.setLfsr k v).pipe = t.pipe := rfl
@[simp] theorem setLfsr_lm (t : CoreTask) (k : Nat) (v : BitVec 32) : (t.setLfsr k v).lm = t.lm := rfl
@[simp] theorem setLfsr_eng (t : CoreTask) (k : Nat) (v : BitVec 32) : (t.setLfsr k v).eng = t.eng := rfl
@[simp] theorem setLfsr_ctl (t : CoreTask) (k : Nat) (v : BitVec 32) : (t.setLfsr k v).ctl = t.ctl := rfl
@[simp] theorem setLfsr_held (t : CoreTask) (k : Nat) (v : BitVec 32) : (t.setLfsr k v).held = t.held := rfl

@[simp] theorem setAcc_id (t : CoreTask) (n : Fin 4) (r c : Nat) (v : Word) : (t.setAcc n r c v).id = t.id := rfl
@[simp] theorem setAcc_code (t : CoreTask) (n : Fin 4) (r c : Nat) (v : Word) : (t.setAcc n r c v).code = t.code := rfl
@[simp] theorem setAcc_pipe (t : CoreTask) (n : Fin 4) (r c : Nat) (v : Word) : (t.setAcc n r c v).pipe = t.pipe := rfl
@[simp] theorem setAcc_lm (t : CoreTask) (n : Fin 4) (r c : Nat) (v : Word) : (t.setAcc n r c v).lm = t.lm := rfl
@[simp] theorem setAcc_eng (t : CoreTask) (n : Fin 4) (r c : Nat) (v : Word) : (t.setAcc n r c v).eng = t.eng := rfl
@[simp] theorem setAcc_ctl (t : CoreTask) (n : Fin 4) (r c : Nat) (v : Word) : (t.setAcc n r c v).ctl = t.ctl := rfl
@[simp] theorem setAcc_held (t : CoreTask) (n : Fin 4) (r c : Nat) (v : Word) : (t.setAcc n r c v).held = t.held := rfl

@[simp] theorem setExponent_id (t : CoreTask) (n : Fin 4) (e : BitVec 16) : (t.setExponent n e).id = t.id := rfl
@[simp] theorem setExponent_code (t : CoreTask) (n : Fin 4) (e : BitVec 16) : (t.setExponent n e).code = t.code := rfl
@[simp] theorem setExponent_pipe (t : CoreTask) (n : Fin 4) (e : BitVec 16) : (t.setExponent n e).pipe = t.pipe := rfl
@[simp] theorem setExponent_lm (t : CoreTask) (n : Fin 4) (e : BitVec 16) : (t.setExponent n e).lm = t.lm := rfl
@[simp] theorem setExponent_eng (t : CoreTask) (n : Fin 4) (e : BitVec 16) : (t.setExponent n e).eng = t.eng := rfl
@[simp] theorem setExponent_ctl (t : CoreTask) (n : Fin 4) (e : BitVec 16) : (t.setExponent n e).ctl = t.ctl := rfl
@[simp] theorem setExponent_held (t : CoreTask) (n : Fin 4) (e : BitVec 16) : (t.setExponent n e).held = t.held := rfl

@[simp] theorem orFlags_id (t : CoreTask) (f : Flags) : (t.orFlags f).id = t.id := rfl
@[simp] theorem orFlags_code (t : CoreTask) (f : Flags) : (t.orFlags f).code = t.code := rfl
@[simp] theorem orFlags_pipe (t : CoreTask) (f : Flags) : (t.orFlags f).pipe = t.pipe := rfl
@[simp] theorem orFlags_lm (t : CoreTask) (f : Flags) : (t.orFlags f).lm = t.lm := rfl
@[simp] theorem orFlags_eng (t : CoreTask) (f : Flags) : (t.orFlags f).eng = t.eng := rfl
@[simp] theorem orFlags_ctl (t : CoreTask) (f : Flags) : (t.orFlags f).ctl = t.ctl := rfl
@[simp] theorem orFlags_held (t : CoreTask) (f : Flags) : (t.orFlags f).held = t.held := rfl

@[simp] theorem schedule_id (t : CoreTask) (l k : Nat) (e : Eff) (f : Flags) : (t.schedule l k e f).id = t.id := rfl
@[simp] theorem schedule_code (t : CoreTask) (l k : Nat) (e : Eff) (f : Flags) : (t.schedule l k e f).code = t.code := rfl
@[simp] theorem schedule_r (t : CoreTask) (l k : Nat) (e : Eff) (f : Flags) : (t.schedule l k e f).r = t.r := rfl
@[simp] theorem schedule_lm (t : CoreTask) (l k : Nat) (e : Eff) (f : Flags) : (t.schedule l k e f).lm = t.lm := rfl
@[simp] theorem schedule_eng (t : CoreTask) (l k : Nat) (e : Eff) (f : Flags) : (t.schedule l k e f).eng = t.eng := rfl
@[simp] theorem schedule_ctl (t : CoreTask) (l k : Nat) (e : Eff) (f : Flags) : (t.schedule l k e f).ctl = t.ctl := rfl
@[simp] theorem schedule_held (t : CoreTask) (l k : Nat) (e : Eff) (f : Flags) : (t.schedule l k e f).held = t.held := rfl

@[simp] theorem result_id (t : CoreTask) (c : Nat) (e : Eff) (f : Flags) : (t.result c e f).id = t.id := rfl
@[simp] theorem result_code (t : CoreTask) (c : Nat) (e : Eff) (f : Flags) : (t.result c e f).code = t.code := rfl
@[simp] theorem result_r (t : CoreTask) (c : Nat) (e : Eff) (f : Flags) : (t.result c e f).r = t.r := rfl
@[simp] theorem result_lm (t : CoreTask) (c : Nat) (e : Eff) (f : Flags) : (t.result c e f).lm = t.lm := rfl
@[simp] theorem result_eng (t : CoreTask) (c : Nat) (e : Eff) (f : Flags) : (t.result c e f).eng = t.eng := rfl
@[simp] theorem result_ctl (t : CoreTask) (c : Nat) (e : Eff) (f : Flags) : (t.result c e f).ctl = t.ctl := rfl
@[simp] theorem result_held (t : CoreTask) (c : Nat) (e : Eff) (f : Flags) : (t.result c e f).held = t.held := rfl

@[simp] theorem shadow_id (t : CoreTask) (e : Eff) : (t.shadow e).id = t.id := rfl
@[simp] theorem shadow_code (t : CoreTask) (e : Eff) : (t.shadow e).code = t.code := rfl
@[simp] theorem shadow_r (t : CoreTask) (e : Eff) : (t.shadow e).r = t.r := rfl
@[simp] theorem shadow_lm (t : CoreTask) (e : Eff) : (t.shadow e).lm = t.lm := rfl
@[simp] theorem shadow_eng (t : CoreTask) (e : Eff) : (t.shadow e).eng = t.eng := rfl
@[simp] theorem shadow_ctl (t : CoreTask) (e : Eff) : (t.shadow e).ctl = t.ctl := rfl
@[simp] theorem shadow_held (t : CoreTask) (e : Eff) : (t.shadow e).held = t.held := rfl

@[simp] theorem raise_id (t : CoreTask) (tr : Trap) : (t.raise tr).id = t.id := rfl
@[simp] theorem raise_code (t : CoreTask) (tr : Trap) : (t.raise tr).code = t.code := rfl
@[simp] theorem raise_r (t : CoreTask) (tr : Trap) : (t.raise tr).r = t.r := rfl
@[simp] theorem raise_lm (t : CoreTask) (tr : Trap) : (t.raise tr).lm = t.lm := rfl
@[simp] theorem raise_eng (t : CoreTask) (tr : Trap) : (t.raise tr).eng = t.eng := rfl
@[simp] theorem raise_ctl (t : CoreTask) (tr : Trap) : (t.raise tr).ctl = t.ctl := rfl
@[simp] theorem raise_held (t : CoreTask) (tr : Trap) : (t.raise tr).held = t.held := rfl

@[simp] theorem preemptPoint_id (t : CoreTask) : (t.preemptPoint).id = t.id := rfl
@[simp] theorem preemptPoint_code (t : CoreTask) : (t.preemptPoint).code = t.code := rfl
@[simp] theorem preemptPoint_r (t : CoreTask) : (t.preemptPoint).r = t.r := rfl
@[simp] theorem preemptPoint_lm (t : CoreTask) : (t.preemptPoint).lm = t.lm := rfl
@[simp] theorem preemptPoint_eng (t : CoreTask) : (t.preemptPoint).eng = t.eng := rfl
@[simp] theorem preemptPoint_ctl (t : CoreTask) : (t.preemptPoint).ctl = t.ctl := rfl
@[simp] theorem preemptPoint_held (t : CoreTask) : (t.preemptPoint).held = t.held := rfl

@[simp] theorem transfer_id (t : CoreTask) (k : Nat) : (t.transfer k).id = t.id := rfl
@[simp] theorem transfer_code (t : CoreTask) (k : Nat) : (t.transfer k).code = t.code := rfl
@[simp] theorem transfer_r (t : CoreTask) (k : Nat) : (t.transfer k).r = t.r := rfl
@[simp] theorem transfer_lm (t : CoreTask) (k : Nat) : (t.transfer k).lm = t.lm := rfl
@[simp] theorem transfer_eng (t : CoreTask) (k : Nat) : (t.transfer k).eng = t.eng := rfl
@[simp] theorem transfer_ctl (t : CoreTask) (k : Nat) : (t.transfer k).ctl = t.ctl := rfl
@[simp] theorem transfer_held (t : CoreTask) (k : Nat) : (t.transfer k).held = t.held := rfl

@[simp] theorem putScratch_id (t : CoreTask) (a : Nat) (b : Byte) (g : BitVec 4) : (t.putScratch a b g).id = t.id := rfl
@[simp] theorem putScratch_code (t : CoreTask) (a : Nat) (b : Byte) (g : BitVec 4) : (t.putScratch a b g).code = t.code := rfl
@[simp] theorem putScratch_r (t : CoreTask) (a : Nat) (b : Byte) (g : BitVec 4) : (t.putScratch a b g).r = t.r := rfl
@[simp] theorem putScratch_pipe (t : CoreTask) (a : Nat) (b : Byte) (g : BitVec 4) : (t.putScratch a b g).pipe = t.pipe := rfl
@[simp] theorem putScratch_eng (t : CoreTask) (a : Nat) (b : Byte) (g : BitVec 4) : (t.putScratch a b g).eng = t.eng := rfl
@[simp] theorem putScratch_ctl (t : CoreTask) (a : Nat) (b : Byte) (g : BitVec 4) : (t.putScratch a b g).ctl = t.ctl := rfl
@[simp] theorem putScratch_held (t : CoreTask) (a : Nat) (b : Byte) (g : BitVec 4) : (t.putScratch a b g).held = t.held := rfl

@[simp] theorem await_id (t : CoreTask) (w : Wait) : (t.await w).id = t.id := rfl
@[simp] theorem await_code (t : CoreTask) (w : Wait) : (t.await w).code = t.code := rfl
@[simp] theorem await_r (t : CoreTask) (w : Wait) : (t.await w).r = t.r := rfl
@[simp] theorem await_lm (t : CoreTask) (w : Wait) : (t.await w).lm = t.lm := rfl
@[simp] theorem await_eng (t : CoreTask) (w : Wait) : (t.await w).eng = t.eng := rfl
@[simp] theorem await_held (t : CoreTask) (w : Wait) : (t.await w).held = t.held := rfl

end CoreTask

/-! ## The scratchpad within a cycle, and the engines -/
@[simp] theorem CoreTask.keepOld_id (t : CoreTask) (a n : Nat) : (t.keepOld a n).id = t.id := rfl
@[simp] theorem CoreTask.keepOld_code (t : CoreTask) (a n : Nat) : (t.keepOld a n).code = t.code := rfl
@[simp] theorem CoreTask.keepOld_r (t : CoreTask) (a n : Nat) : (t.keepOld a n).r = t.r := rfl
@[simp] theorem CoreTask.keepOld_pipe (t : CoreTask) (a n : Nat) : (t.keepOld a n).pipe = t.pipe := rfl
@[simp] theorem CoreTask.keepOld_eng (t : CoreTask) (a n : Nat) : (t.keepOld a n).eng = t.eng := rfl
@[simp] theorem CoreTask.keepOld_ctl (t : CoreTask) (a n : Nat) : (t.keepOld a n).ctl = t.ctl := rfl
@[simp] theorem CoreTask.keepOld_held (t : CoreTask) (a n : Nat) : (t.keepOld a n).held = t.held := rfl
@[simp] theorem CoreTask.keepOld_lm_scratch (t : CoreTask) (a n : Nat) : (t.keepOld a n).lm.scratch = t.lm.scratch := rfl
@[simp] theorem CoreTask.keepOld_lm_plane (t : CoreTask) (a n : Nat) : (t.keepOld a n).lm.plane = t.lm.plane := rfl
@[simp] theorem CoreTask.keepOld_lm_inbox (t : CoreTask) (a n : Nat) : (t.keepOld a n).lm.inbox = t.lm.inbox := rfl
@[simp] theorem CoreTask.keepOld_lm_tags (t : CoreTask) (a n : Nat) : (t.keepOld a n).lm.tags = t.lm.tags := rfl
@[simp] theorem CoreTask.keepOld_lm_bad (t : CoreTask) (a n : Nat) : (t.keepOld a n).lm.bad = t.lm.bad := rfl
@[simp] theorem CoreTask.keepOld_lm_leases (t : CoreTask) (a n : Nat) : (t.keepOld a n).lm.leases = t.lm.leases := rfl
@[simp] theorem CoreTask.keepOld_lm_clock (t : CoreTask) (a n : Nat) : (t.keepOld a n).lm.clock = t.lm.clock := rfl
@[simp] theorem CoreTask.keepOld_lm_behind (t : CoreTask) (a n : Nat) : (t.keepOld a n).lm.behind = t.lm.behind := rfl
@[simp] theorem CoreTask.keepOld_lm_planeMark (t : CoreTask) (a n : Nat) : (t.keepOld a n).lm.planeMark = t.lm.planeMark := rfl


@[simp] theorem CoreTask.pass_id (t : CoreTask) (sel : Behind → Bool) (rs : Nat → Bool) : (t.pass sel rs).id = t.id := rfl
@[simp] theorem CoreTask.pass_code (t : CoreTask) (sel : Behind → Bool) (rs : Nat → Bool) : (t.pass sel rs).code = t.code := rfl
@[simp] theorem CoreTask.pass_r (t : CoreTask) (sel : Behind → Bool) (rs : Nat → Bool) : (t.pass sel rs).r = t.r := rfl
@[simp] theorem CoreTask.pass_pipe (t : CoreTask) (sel : Behind → Bool) (rs : Nat → Bool) : (t.pass sel rs).pipe = t.pipe := rfl
@[simp] theorem CoreTask.pass_eng (t : CoreTask) (sel : Behind → Bool) (rs : Nat → Bool) : (t.pass sel rs).eng = t.eng := rfl
@[simp] theorem CoreTask.pass_ctl (t : CoreTask) (sel : Behind → Bool) (rs : Nat → Bool) : (t.pass sel rs).ctl = t.ctl := rfl
@[simp] theorem CoreTask.pass_held (t : CoreTask) (sel : Behind → Bool) (rs : Nat → Bool) : (t.pass sel rs).held = t.held := rfl
@[simp] theorem CoreTask.pass_lm_scratch (t : CoreTask) (sel : Behind → Bool) (rs : Nat → Bool) :
    (t.pass sel rs).lm.scratch = t.lm.scratch := rfl
@[simp] theorem CoreTask.pass_lm_plane (t : CoreTask) (sel : Behind → Bool) (rs : Nat → Bool) :
    (t.pass sel rs).lm.plane = t.lm.plane := rfl
@[simp] theorem CoreTask.pass_lm_inbox (t : CoreTask) (sel : Behind → Bool) (rs : Nat → Bool) :
    (t.pass sel rs).lm.inbox = t.lm.inbox := rfl
@[simp] theorem CoreTask.pass_lm_tags (t : CoreTask) (sel : Behind → Bool) (rs : Nat → Bool) :
    (t.pass sel rs).lm.tags = t.lm.tags := rfl
@[simp] theorem CoreTask.pass_lm_bad (t : CoreTask) (sel : Behind → Bool) (rs : Nat → Bool) :
    (t.pass sel rs).lm.bad = t.lm.bad := rfl
@[simp] theorem CoreTask.pass_lm_leases (t : CoreTask) (sel : Behind → Bool) (rs : Nat → Bool) :
    (t.pass sel rs).lm.leases = t.lm.leases := rfl
@[simp] theorem CoreTask.pass_lm_clock (t : CoreTask) (sel : Behind → Bool) (rs : Nat → Bool) :
    (t.pass sel rs).lm.clock = t.lm.clock := rfl
@[simp] theorem CoreTask.pass_lm_undo (t : CoreTask) (sel : Behind → Bool) (rs : Nat → Bool) :
    (t.pass sel rs).lm.undo = t.lm.undo := rfl
@[simp] theorem CoreTask.pass_lm_planeMark (t : CoreTask) (sel : Behind → Bool) (rs : Nat → Bool) :
    (t.pass sel rs).lm.planeMark = t.lm.planeMark := rfl

@[simp] theorem CoreTask.inOrder_id (t : CoreTask) (a b : BitVec 5) (ord : Nat) : (t.inOrder a b ord).id = t.id := rfl
@[simp] theorem CoreTask.inOrder_code (t : CoreTask) (a b : BitVec 5) (ord : Nat) : (t.inOrder a b ord).code = t.code := rfl
@[simp] theorem CoreTask.inOrder_r (t : CoreTask) (a b : BitVec 5) (ord : Nat) : (t.inOrder a b ord).r = t.r := rfl
@[simp] theorem CoreTask.inOrder_pipe (t : CoreTask) (a b : BitVec 5) (ord : Nat) : (t.inOrder a b ord).pipe = t.pipe := rfl
@[simp] theorem CoreTask.inOrder_eng (t : CoreTask) (a b : BitVec 5) (ord : Nat) : (t.inOrder a b ord).eng = t.eng := rfl
@[simp] theorem CoreTask.inOrder_ctl (t : CoreTask) (a b : BitVec 5) (ord : Nat) : (t.inOrder a b ord).ctl = t.ctl := rfl
@[simp] theorem CoreTask.inOrder_held (t : CoreTask) (a b : BitVec 5) (ord : Nat) : (t.inOrder a b ord).held = t.held := rfl
@[simp] theorem CoreTask.inOrder_lm_scratch (t : CoreTask) (a b : BitVec 5) (ord : Nat) :
    (t.inOrder a b ord).lm.scratch = t.lm.scratch := rfl
@[simp] theorem CoreTask.inOrder_lm_inbox (t : CoreTask) (a b : BitVec 5) (ord : Nat) :
    (t.inOrder a b ord).lm.inbox = t.lm.inbox := rfl
@[simp] theorem CoreTask.inOrder_lm_tags (t : CoreTask) (a b : BitVec 5) (ord : Nat) :
    (t.inOrder a b ord).lm.tags = t.lm.tags := rfl
@[simp] theorem CoreTask.inOrder_lm_bad (t : CoreTask) (a b : BitVec 5) (ord : Nat) :
    (t.inOrder a b ord).lm.bad = t.lm.bad := rfl
@[simp] theorem CoreTask.inOrder_lm_leases (t : CoreTask) (a b : BitVec 5) (ord : Nat) :
    (t.inOrder a b ord).lm.leases = t.lm.leases := rfl
@[simp] theorem CoreTask.inOrder_lm_clock (t : CoreTask) (a b : BitVec 5) (ord : Nat) :
    (t.inOrder a b ord).lm.clock = t.lm.clock := rfl
@[simp] theorem CoreTask.inOrder_lm_undo (t : CoreTask) (a b : BitVec 5) (ord : Nat) :
    (t.inOrder a b ord).lm.undo = t.lm.undo := rfl
@[simp] theorem CoreTask.inOrder_lm_planeMark (t : CoreTask) (a b : BitVec 5) (ord : Nat) :
    (t.inOrder a b ord).lm.planeMark = t.lm.planeMark := rfl

@[simp] theorem CoreTask.observed_id (t : CoreTask) (a : Nat) : (t.observed a).id = t.id := rfl
@[simp] theorem CoreTask.observed_code (t : CoreTask) (a : Nat) : (t.observed a).code = t.code := rfl
@[simp] theorem CoreTask.observed_r (t : CoreTask) (a : Nat) : (t.observed a).r = t.r := rfl
@[simp] theorem CoreTask.observed_pipe (t : CoreTask) (a : Nat) : (t.observed a).pipe = t.pipe := rfl
@[simp] theorem CoreTask.observed_eng (t : CoreTask) (a : Nat) : (t.observed a).eng = t.eng := rfl
@[simp] theorem CoreTask.observed_ctl (t : CoreTask) (a : Nat) : (t.observed a).ctl = t.ctl := rfl
@[simp] theorem CoreTask.observed_held (t : CoreTask) (a : Nat) : (t.observed a).held = t.held := rfl
@[simp] theorem CoreTask.observed_lm_scratch (t : CoreTask) (a : Nat) :
    (t.observed a).lm.scratch = t.lm.scratch := rfl
@[simp] theorem CoreTask.observed_lm_plane (t : CoreTask) (a : Nat) :
    (t.observed a).lm.plane = t.lm.plane := rfl
@[simp] theorem CoreTask.observed_lm_inbox (t : CoreTask) (a : Nat) :
    (t.observed a).lm.inbox = t.lm.inbox := rfl
@[simp] theorem CoreTask.observed_lm_tags (t : CoreTask) (a : Nat) :
    (t.observed a).lm.tags = t.lm.tags := rfl
@[simp] theorem CoreTask.observed_lm_bad (t : CoreTask) (a : Nat) :
    (t.observed a).lm.bad = t.lm.bad := rfl
@[simp] theorem CoreTask.observed_lm_leases (t : CoreTask) (a : Nat) :
    (t.observed a).lm.leases = t.lm.leases := rfl
@[simp] theorem CoreTask.observed_lm_clock (t : CoreTask) (a : Nat) :
    (t.observed a).lm.clock = t.lm.clock := rfl
@[simp] theorem CoreTask.observed_lm_undo (t : CoreTask) (a : Nat) :
    (t.observed a).lm.undo = t.lm.undo := rfl
@[simp] theorem CoreTask.observed_lm_planeMark (t : CoreTask) (a : Nat) :
    (t.observed a).lm.planeMark = t.lm.planeMark := rfl

@[simp] theorem CoreTask.tells_id (t : CoreTask) (a : Nat) (e : Bool) (p : Behind → Bool) : (t.tells a e p).id = t.id := rfl
@[simp] theorem CoreTask.tells_code (t : CoreTask) (a : Nat) (e : Bool) (p : Behind → Bool) : (t.tells a e p).code = t.code := rfl
@[simp] theorem CoreTask.tells_r (t : CoreTask) (a : Nat) (e : Bool) (p : Behind → Bool) : (t.tells a e p).r = t.r := rfl
@[simp] theorem CoreTask.tells_pipe (t : CoreTask) (a : Nat) (e : Bool) (p : Behind → Bool) : (t.tells a e p).pipe = t.pipe := rfl
@[simp] theorem CoreTask.tells_eng (t : CoreTask) (a : Nat) (e : Bool) (p : Behind → Bool) : (t.tells a e p).eng = t.eng := rfl
@[simp] theorem CoreTask.tells_ctl (t : CoreTask) (a : Nat) (e : Bool) (p : Behind → Bool) : (t.tells a e p).ctl = t.ctl := rfl
@[simp] theorem CoreTask.tells_held (t : CoreTask) (a : Nat) (e : Bool) (p : Behind → Bool) : (t.tells a e p).held = t.held := rfl
@[simp] theorem CoreTask.tells_lm_scratch (t : CoreTask) (a : Nat) (e : Bool) (p : Behind → Bool) :
    (t.tells a e p).lm.scratch = t.lm.scratch := rfl
@[simp] theorem CoreTask.tells_lm_plane (t : CoreTask) (a : Nat) (e : Bool) (p : Behind → Bool) :
    (t.tells a e p).lm.plane = t.lm.plane := rfl
@[simp] theorem CoreTask.tells_lm_inbox (t : CoreTask) (a : Nat) (e : Bool) (p : Behind → Bool) :
    (t.tells a e p).lm.inbox = t.lm.inbox := rfl
@[simp] theorem CoreTask.tells_lm_tags (t : CoreTask) (a : Nat) (e : Bool) (p : Behind → Bool) :
    (t.tells a e p).lm.tags = t.lm.tags := rfl
@[simp] theorem CoreTask.tells_lm_bad (t : CoreTask) (a : Nat) (e : Bool) (p : Behind → Bool) :
    (t.tells a e p).lm.bad = t.lm.bad := rfl
@[simp] theorem CoreTask.tells_lm_leases (t : CoreTask) (a : Nat) (e : Bool) (p : Behind → Bool) :
    (t.tells a e p).lm.leases = t.lm.leases := rfl
@[simp] theorem CoreTask.tells_lm_clock (t : CoreTask) (a : Nat) (e : Bool) (p : Behind → Bool) :
    (t.tells a e p).lm.clock = t.lm.clock := rfl
@[simp] theorem CoreTask.tells_lm_undo (t : CoreTask) (a : Nat) (e : Bool) (p : Behind → Bool) :
    (t.tells a e p).lm.undo = t.lm.undo := rfl
@[simp] theorem CoreTask.tells_lm_planeMark (t : CoreTask) (a : Nat) (e : Bool) (p : Behind → Bool) :
    (t.tells a e p).lm.planeMark = t.lm.planeMark := rfl

@[simp] theorem CoreTask.untell_id (t : CoreTask) (p : Nat → Bool) : (t.untell p).id = t.id := rfl
@[simp] theorem CoreTask.untell_code (t : CoreTask) (p : Nat → Bool) : (t.untell p).code = t.code := rfl
@[simp] theorem CoreTask.untell_r (t : CoreTask) (p : Nat → Bool) : (t.untell p).r = t.r := rfl
@[simp] theorem CoreTask.untell_pipe (t : CoreTask) (p : Nat → Bool) : (t.untell p).pipe = t.pipe := rfl
@[simp] theorem CoreTask.untell_eng (t : CoreTask) (p : Nat → Bool) : (t.untell p).eng = t.eng := rfl
@[simp] theorem CoreTask.untell_ctl (t : CoreTask) (p : Nat → Bool) : (t.untell p).ctl = t.ctl := rfl
@[simp] theorem CoreTask.untell_held (t : CoreTask) (p : Nat → Bool) : (t.untell p).held = t.held := rfl
@[simp] theorem CoreTask.untell_lm_scratch (t : CoreTask) (p : Nat → Bool) :
    (t.untell p).lm.scratch = t.lm.scratch := rfl
@[simp] theorem CoreTask.untell_lm_plane (t : CoreTask) (p : Nat → Bool) :
    (t.untell p).lm.plane = t.lm.plane := rfl
@[simp] theorem CoreTask.untell_lm_inbox (t : CoreTask) (p : Nat → Bool) :
    (t.untell p).lm.inbox = t.lm.inbox := rfl
@[simp] theorem CoreTask.untell_lm_tags (t : CoreTask) (p : Nat → Bool) :
    (t.untell p).lm.tags = t.lm.tags := rfl
@[simp] theorem CoreTask.untell_lm_bad (t : CoreTask) (p : Nat → Bool) :
    (t.untell p).lm.bad = t.lm.bad := rfl
@[simp] theorem CoreTask.untell_lm_leases (t : CoreTask) (p : Nat → Bool) :
    (t.untell p).lm.leases = t.lm.leases := rfl
@[simp] theorem CoreTask.untell_lm_clock (t : CoreTask) (p : Nat → Bool) :
    (t.untell p).lm.clock = t.lm.clock := rfl
@[simp] theorem CoreTask.untell_lm_undo (t : CoreTask) (p : Nat → Bool) :
    (t.untell p).lm.undo = t.lm.undo := rfl
@[simp] theorem CoreTask.untell_lm_planeMark (t : CoreTask) (p : Nat → Bool) :
    (t.untell p).lm.planeMark = t.lm.planeMark := rfl

@[simp] theorem CoreTask.saw_id (t : CoreTask) (a n : Nat) : (t.saw a n).id = t.id := rfl
@[simp] theorem CoreTask.saw_code (t : CoreTask) (a n : Nat) : (t.saw a n).code = t.code := rfl
@[simp] theorem CoreTask.saw_r (t : CoreTask) (a n : Nat) : (t.saw a n).r = t.r := rfl
@[simp] theorem CoreTask.saw_pipe (t : CoreTask) (a n : Nat) : (t.saw a n).pipe = t.pipe := rfl
@[simp] theorem CoreTask.saw_eng (t : CoreTask) (a n : Nat) : (t.saw a n).eng = t.eng := rfl
@[simp] theorem CoreTask.saw_ctl (t : CoreTask) (a n : Nat) : (t.saw a n).ctl = t.ctl := rfl
@[simp] theorem CoreTask.saw_held (t : CoreTask) (a n : Nat) : (t.saw a n).held = t.held := rfl
@[simp] theorem CoreTask.saw_lm_scratch (t : CoreTask) (a n : Nat) :
    (t.saw a n).lm.scratch = t.lm.scratch := rfl
@[simp] theorem CoreTask.saw_lm_plane (t : CoreTask) (a n : Nat) :
    (t.saw a n).lm.plane = t.lm.plane := rfl
@[simp] theorem CoreTask.saw_lm_inbox (t : CoreTask) (a n : Nat) :
    (t.saw a n).lm.inbox = t.lm.inbox := rfl
@[simp] theorem CoreTask.saw_lm_tags (t : CoreTask) (a n : Nat) :
    (t.saw a n).lm.tags = t.lm.tags := rfl
@[simp] theorem CoreTask.saw_lm_bad (t : CoreTask) (a n : Nat) :
    (t.saw a n).lm.bad = t.lm.bad := rfl
@[simp] theorem CoreTask.saw_lm_leases (t : CoreTask) (a n : Nat) :
    (t.saw a n).lm.leases = t.lm.leases := rfl
@[simp] theorem CoreTask.saw_lm_clock (t : CoreTask) (a n : Nat) :
    (t.saw a n).lm.clock = t.lm.clock := rfl
@[simp] theorem CoreTask.saw_lm_undo (t : CoreTask) (a n : Nat) :
    (t.saw a n).lm.undo = t.lm.undo := rfl
@[simp] theorem CoreTask.saw_lm_planeMark (t : CoreTask) (a n : Nat) :
    (t.saw a n).lm.planeMark = t.lm.planeMark := rfl

@[simp] theorem CoreTask.leaveBehind_id (t : CoreTask) (a n path ord : Nat) (own : Bool) (rs : List Nat) : (t.leaveBehind a n path ord own rs).id = t.id := by cases own <;> rfl
@[simp] theorem CoreTask.leaveBehind_code (t : CoreTask) (a n path ord : Nat) (own : Bool) (rs : List Nat) : (t.leaveBehind a n path ord own rs).code = t.code := by cases own <;> rfl
@[simp] theorem CoreTask.leaveBehind_r (t : CoreTask) (a n path ord : Nat) (own : Bool) (rs : List Nat) : (t.leaveBehind a n path ord own rs).r = t.r := by cases own <;> rfl
@[simp] theorem CoreTask.leaveBehind_pipe (t : CoreTask) (a n path ord : Nat) (own : Bool) (rs : List Nat) : (t.leaveBehind a n path ord own rs).pipe = t.pipe := by cases own <;> rfl
@[simp] theorem CoreTask.leaveBehind_eng (t : CoreTask) (a n path ord : Nat) (own : Bool) (rs : List Nat) : (t.leaveBehind a n path ord own rs).eng = t.eng := by cases own <;> rfl
@[simp] theorem CoreTask.leaveBehind_ctl (t : CoreTask) (a n path ord : Nat) (own : Bool) (rs : List Nat) : (t.leaveBehind a n path ord own rs).ctl = t.ctl := by cases own <;> rfl
@[simp] theorem CoreTask.leaveBehind_held (t : CoreTask) (a n path ord : Nat) (own : Bool) (rs : List Nat) : (t.leaveBehind a n path ord own rs).held = t.held := by cases own <;> rfl
@[simp] theorem CoreTask.leaveBehind_lm_scratch (t : CoreTask) (a n path ord : Nat) (own : Bool) (rs : List Nat) :
    (t.leaveBehind a n path ord own rs).lm.scratch = t.lm.scratch := by cases own <;> rfl
@[simp] theorem CoreTask.leaveBehind_lm_plane (t : CoreTask) (a n path ord : Nat) (own : Bool) (rs : List Nat) :
    (t.leaveBehind a n path ord own rs).lm.plane = t.lm.plane := by cases own <;> rfl
@[simp] theorem CoreTask.leaveBehind_lm_inbox (t : CoreTask) (a n path ord : Nat) (own : Bool) (rs : List Nat) :
    (t.leaveBehind a n path ord own rs).lm.inbox = t.lm.inbox := by cases own <;> rfl
@[simp] theorem CoreTask.leaveBehind_lm_tags (t : CoreTask) (a n path ord : Nat) (own : Bool) (rs : List Nat) :
    (t.leaveBehind a n path ord own rs).lm.tags = t.lm.tags := by cases own <;> rfl
@[simp] theorem CoreTask.leaveBehind_lm_bad (t : CoreTask) (a n path ord : Nat) (own : Bool) (rs : List Nat) :
    (t.leaveBehind a n path ord own rs).lm.bad = t.lm.bad := by cases own <;> rfl
@[simp] theorem CoreTask.leaveBehind_lm_leases (t : CoreTask) (a n path ord : Nat) (own : Bool) (rs : List Nat) :
    (t.leaveBehind a n path ord own rs).lm.leases = t.lm.leases := by cases own <;> rfl
@[simp] theorem CoreTask.leaveBehind_lm_clock (t : CoreTask) (a n path ord : Nat) (own : Bool) (rs : List Nat) :
    (t.leaveBehind a n path ord own rs).lm.clock = t.lm.clock := by cases own <;> rfl
@[simp] theorem CoreTask.leaveBehind_lm_undo (t : CoreTask) (a n path ord : Nat) (own : Bool) (rs : List Nat) :
    (t.leaveBehind a n path ord own rs).lm.undo = t.lm.undo := by cases own <;> rfl
@[simp] theorem CoreTask.leaveBehind_lm_planeMark (t : CoreTask) (a n path ord : Nat) (own : Bool) (rs : List Nat) :
    (t.leaveBehind a n path ord own rs).lm.planeMark = t.lm.planeMark := by cases own <;> rfl

@[simp] theorem CoreTask.setCmd_id (t : CoreTask) (c : Cmd) : (t.setCmd c).id = t.id := rfl
@[simp] theorem CoreTask.setCmd_code (t : CoreTask) (c : Cmd) : (t.setCmd c).code = t.code := rfl
@[simp] theorem CoreTask.setCmd_r (t : CoreTask) (c : Cmd) : (t.setCmd c).r = t.r := rfl
@[simp] theorem CoreTask.setCmd_pipe (t : CoreTask) (c : Cmd) : (t.setCmd c).pipe = t.pipe := rfl
@[simp] theorem CoreTask.setCmd_lm (t : CoreTask) (c : Cmd) : (t.setCmd c).lm = t.lm := rfl
@[simp] theorem CoreTask.setCmd_ctl (t : CoreTask) (c : Cmd) : (t.setCmd c).ctl = t.ctl := rfl
@[simp] theorem CoreTask.setCmd_held (t : CoreTask) (c : Cmd) : (t.setCmd c).held = t.held := rfl
@[simp] theorem CoreTask.dropCmd_id (t : CoreTask) (ord : Nat) : (t.dropCmd ord).id = t.id := rfl
@[simp] theorem CoreTask.dropCmd_code (t : CoreTask) (ord : Nat) : (t.dropCmd ord).code = t.code := rfl
@[simp] theorem CoreTask.dropCmd_r (t : CoreTask) (ord : Nat) : (t.dropCmd ord).r = t.r := rfl
@[simp] theorem CoreTask.dropCmd_pipe (t : CoreTask) (ord : Nat) : (t.dropCmd ord).pipe = t.pipe := rfl
@[simp] theorem CoreTask.dropCmd_lm (t : CoreTask) (ord : Nat) : (t.dropCmd ord).lm = t.lm := rfl
@[simp] theorem CoreTask.dropCmd_ctl (t : CoreTask) (ord : Nat) : (t.dropCmd ord).ctl = t.ctl := rfl
@[simp] theorem CoreTask.dropCmd_held (t : CoreTask) (ord : Nat) : (t.dropCmd ord).held = t.held := rfl

end Sys2Proof.Machine
end

