-- ==== Sys2Proof/Laws/Syllables.lean ====
section
/-! SUPPORT. What the shared frames of the syllables do: guarded off, acting, or touching an outstanding call. -/

namespace Sys2Proof.Machine

open Sys2Proof.Safety

/-- Everything the frame around a syllable can do. -/
theorem syllable_cases (i : Instr) (on : Bool) (s : State) (f : State → State) :
    syllable i on s f = .next (if on then
      (match s.t.outstanding i with
        | some r => s.onT fun t => t.fail i.cls 0x0C (BitVec.ofNat 64 r)
        | none => f s) else s) := rfl

/-- A syllable that acts has its own effect. -/
theorem syllable_acts {i : Instr} {on : Bool} {s : State} {f : State → State} (h1 : on = true)
    (h2 : s.t.outstanding i = none) : syllable i on s f = .next (f s) := by simp [syllable, h1, h2]

/-- A guarded-off syllable changes nothing. -/
theorem syllable_off {i : Instr} {on : Bool} {s : State} {f : State → State} (h : on = false) :
    syllable i on s f = .next s := by simp [syllable, h]

/-- A syllable that touches an outstanding call's footprint raises 0x0C (R226). -/
theorem syllable_footprint {i : Instr} {on : Bool} {s : State} {f : State → State} {r : Nat} (h1 : on = true)
    (h2 : s.t.outstanding i = some r) :
    syllable i on s f = .next (s.onT fun t => t.fail i.cls 0x0C (BitVec.ofNat 64 r)) := by simp [syllable, h1, h2]

theorem scalarOp_acts {i : Instr} {g : Guard} {cls : Nat} {sl : Slot} {d : SDst} {v : Word} {s : State}
    (h : Acts s i g) : scalarOp i g cls sl d v s = .next (s.onT (·.scalarResult cls sl d v)) := syllable_acts h.1 h.2

theorem predOp_acts {i : Instr} {g : Guard} {k : Fin 8} {b : Bool} {s : State} (h : Acts s i g) :
    predOp i g k b s = .next (s.onT (·.predResult k b)) := syllable_acts h.1 h.2

theorem controlOp_acts {i : Instr} {g : Guard} {f : CoreTask → CoreTask} {s : State} (h : Acts s i g) :
    controlOp i g f s = .next (s.onT f) := syllable_acts h.1 h.2

end Sys2Proof.Machine
end

