-- ==== Sys2Proof/Laws/Landing.lean ====
section
/-! SUPPORT. What the core cycles after an issue do to one result in flight: nothing until it is due, then its effect. -/

namespace Sys2Proof.Machine

namespace CoreTask

theorem landN_add (a b : Nat) (t : CoreTask) : landN (a + b) t = landN b (landN a t) := by
  induction a generalizing t with
  | zero => simp [landN]
  | succ a ih => rw [Nat.add_right_comm, landN, ih, landN]

theorem soundSectors_nil (t : CoreTask) : t.soundSectors [] = t := by
  unfold soundSectors
  split
  · rfl
  · have h : t.lm.bad.filter (fun k => !(List.range 32).all fun i => ([] : List Nat).contains (32 * k + i)) = t.lm.bad := by
      rw [List.filter_eq_self]; intro k _; rfl
    rw [h]

/-- A cycle without a plane write or a store closes as it stands. -/
theorem closeCycle_none {t : CoreTask} (h : t.lm.plane = []) (hu : t.lm.undo = []) : t.closeCycle = t := by
  have e : ({ t with lm.plane := [] } : CoreTask) = t := by rw [← h]
  unfold closeCycle
  rw [h, e]
  simp [runs, soundSectors_nil, hu]

theorem settleLoads_none {t : CoreTask} (h : t.pipe.loads = []) : t.settleLoads = t := by
  cases t with | mk id code r pipe lm eng ctl held => cases pipe; simp_all [settleLoads]

/-- One idle core cycle with one result in flight that is not due. -/
theorem land_later {t : CoreTask} {p : Pend} (h1 : t.pipe.pend = [p]) (h2 : t.pipe.loads = [])
    (h3 : t.lm.plane = []) (h4 : t.lm.undo = []) (h : 1 < p.left) : t.land.closeCycle = { t with
      pipe.pend := [{ p with left := p.left - 1, real := p.real - 1 }], pipe.cycle := t.pipe.cycle + 1, pipe.freeze := 0 } := by
  have hh : ¬ p.left ≤ 1 := by omega
  have e : t.land = { t with
      pipe.pend := [{ p with left := p.left - 1, real := p.real - 1 }], pipe.cycle := t.pipe.cycle + 1, pipe.freeze := 0 } := by
    simp [land, settleLoads, h1, h2, h, hh]
  rw [e]; exact closeCycle_none h3 h4

/-- Core cycles before the result is due leave the registers and the scratchpad alone. -/
theorem landN_later {t : CoreTask} {p : Pend} (h1 : t.pipe.pend = [p]) (h2 : t.pipe.loads = []) (h3 : t.lm.plane = [])
    (h4 : t.lm.undo = []) (k : Nat) (h : k < p.left) : ∃ c f, landN k t = { t with
      pipe.pend := [{ p with left := p.left - k, real := p.real - k }], pipe.cycle := c, pipe.freeze := f } := by
  induction k generalizing t p with
  | zero => refine ⟨t.pipe.cycle, t.pipe.freeze, ?_⟩; simp [landN, ← h1]
  | succ k ih =>
    rw [landN, land_later h1 h2 h3 h4 (by omega)]
    obtain ⟨c, f, h5⟩ := ih (t := { t with
      pipe.pend := [{ p with left := p.left - 1, real := p.real - 1 }], pipe.cycle := t.pipe.cycle + 1, pipe.freeze := 0 })
      rfl h2 h3 h4 (by simp; omega)
    refine ⟨c, f, ?_⟩
    rw [h5]
    simp [Nat.sub_sub, Nat.add_comm]

/-- The cycle in which the only result in flight becomes visible. -/
theorem land_due {t : CoreTask} {p : Pend} (h1 : t.pipe.pend = [p]) (h : p.left ≤ 1) : t.land = ({ t with
      pipe.pend := [], pipe.cycle := t.pipe.cycle + 1, pipe.freeze := 0 }.landOne p).settleLoads := by
  have hh : ¬ 1 < p.left := by omega
  by_cases hc : p.eff.isCtl <;> simp [land, h1, hh, h, hc]

/-- After exactly its latency the result has its effect. -/
theorem landN_due {t : CoreTask} {p : Pend} (h1 : t.pipe.pend = [p]) (h2 : t.pipe.loads = []) (h3 : t.lm.plane = [])
    (h4 : t.lm.undo = []) (h : 1 ≤ p.left) : ∃ c, landN p.left t = ((({ t with pipe.pend := [], pipe.cycle := c, pipe.freeze := 0 }).landOne
        { p with left := 1, real := p.real - (p.left - 1) }).settleLoads).closeCycle := by
  obtain ⟨c, f, h5⟩ := landN_later h1 h2 h3 h4 (p.left - 1) (by omega)
  have e2 : p.left - (p.left - 1) = 1 := by omega
  refine ⟨c + 1, ?_⟩
  have hl : landN p.left t = (landN (p.left - 1) t).land.closeCycle := by
    conv => lhs; rw [show p.left = p.left - 1 + 1 by omega, landN_add]
    rfl
  rw [hl, h5]
  have key : ∀ u : CoreTask, u.pipe.pend = [{ p with left := p.left - (p.left - 1), real := p.real - (p.left - 1) }] →
      u.land = ({ u with pipe.pend := [], pipe.cycle := u.pipe.cycle + 1, pipe.freeze := 0 }.landOne
        { p with left := 1, real := p.real - (p.left - 1) }).settleLoads := fun u hu => by
    rw [land_due hu (by simp [e2]), e2]
  rw [key _ rfl]

/-- After exactly its latency a result whose effect touches no pipeline state has set the registers it names, and nothing
else of the task. -/
theorem landN_due_regs {t : CoreTask} {p : Pend} (h1 : t.pipe.pend = [p]) (h2 : t.pipe.loads = [])
    (h3 : t.lm.plane = []) (h4 : t.lm.undo = []) (h : 1 ≤ p.left) (f : CoreTask → CoreTask)
    (hf : ∀ u : CoreTask, u.landOne { p with left := 1, real := p.real - (p.left - 1) } = f u)
    (hp : ∀ u : CoreTask, (f u).pipe = u.pipe) (hr : ∀ (u : CoreTask) q, (f { u with pipe := q }).r = (f u).r)
    (hl : ∀ u : CoreTask, (f u).lm = u.lm) (he : ∀ u : CoreTask, (f u).eng = u.eng) :
    (landN p.left t).r = (f t).r ∧ (landN p.left t).lm = t.lm ∧ (landN p.left t).eng = t.eng := by
  obtain ⟨c, h5⟩ := landN_due h1 h2 h3 h4 h
  rw [h5, hf, settleLoads_none (by rw [hp]; exact h2), closeCycle_none (by rw [hl]; exact h3) (by rw [hl]; exact h4)]
  exact ⟨hr t _, by simp [hl], by simp [he]⟩

end CoreTask

end Sys2Proof.Machine
end

