-- ==== Sys2Proof/Laws/Scalar.lean ====
section
/-! SUPPORT. The values of the scalar syllables, as exact arithmetic and bit by bit. -/

namespace Sys2Proof.Machine

theorem v_add (a b : Word) : a + b = BitVec.ofNat 64 (a.toNat + b.toNat) := by
  apply BitVec.eq_of_toNat_eq; simp
theorem v_sub (a b : Word) : a - b = BitVec.ofInt 64 (a.toInt - b.toInt) := by
  apply BitVec.eq_of_toInt_eq; simp [BitVec.toInt_sub]
theorem v_mul (a b : Word) : a * b = BitVec.ofNat 64 (a.toNat * b.toNat) := by
  apply BitVec.eq_of_toNat_eq; simp
theorem v_min (a b : Word) : (if b.slt a then b else a) = BitVec.ofInt 64 (min a.toInt b.toInt) := by
  simp only [BitVec.slt, decide_eq_true_eq]
  split
  · rw [show min a.toInt b.toInt = b.toInt by omega, BitVec.ofInt_toInt]
  · rw [show min a.toInt b.toInt = a.toInt by omega, BitVec.ofInt_toInt]
theorem v_max (a b : Word) : (if a.slt b then b else a) = BitVec.ofInt 64 (max a.toInt b.toInt) := by
  simp only [BitVec.slt, decide_eq_true_eq]
  split
  · rw [show max a.toInt b.toInt = b.toInt by omega, BitVec.ofInt_toInt]
  · rw [show max a.toInt b.toInt = a.toInt by omega, BitVec.ofInt_toInt]
theorem v_minu (a b : Word) : (if b.ult a then b else a) = BitVec.ofNat 64 (min a.toNat b.toNat) := by
  simp only [BitVec.ult, decide_eq_true_eq]
  split
  · rw [show min a.toNat b.toNat = b.toNat by omega]; simp
  · rw [show min a.toNat b.toNat = a.toNat by omega]; simp
theorem v_maxu (a b : Word) : (if a.ult b then b else a) = BitVec.ofNat 64 (max a.toNat b.toNat) := by
  simp only [BitVec.ult, decide_eq_true_eq]
  split
  · rw [show max a.toNat b.toNat = b.toNat by omega]; simp
  · rw [show max a.toNat b.toNat = a.toNat by omega]; simp
theorem toInt_setWidth32 (a : Word) : (a.setWidth 32).toInt = Int.bmod a.toInt (2 ^ 32) := by
  rw [BitVec.toInt_setWidth]
  simp [BitVec.toInt_eq_toNat_bmod, Int.bmod_bmod_of_dvd]
theorem v_addw (a b : Word) : sxWord (a.setWidth 32 + b.setWidth 32) = BitVec.ofInt 64 (Int.bmod (a.toInt + b.toInt) (2 ^ 32)) := by
  apply BitVec.eq_of_toInt_eq
  rw [sxWord, BitVec.toInt_signExtend_of_le (by omega), BitVec.toInt_ofInt, BitVec.toInt_add, toInt_setWidth32, toInt_setWidth32]
  have h : Int.bmod (Int.bmod (a.toInt + b.toInt) (2^32)) (2^64) = Int.bmod (a.toInt + b.toInt) (2^32) := by
    apply Int.bmod_eq_of_le <;> have := @Int.le_bmod (a.toInt + b.toInt) (2^32) (by decide) <;> have := @Int.bmod_lt (a.toInt + b.toInt) (2^32) (by decide) <;> omega
  rw [h]; simp
theorem v_lea (a b : Word) (k : Nat) : a + b <<< k = BitVec.ofNat 64 (a.toNat + b.toNat * 2 ^ k) := by
  apply BitVec.eq_of_toNat_eq; simp [Nat.shiftLeft_eq]
theorem bmod_small (x : Int) : Int.bmod (Int.bmod x (2^32)) (2^64) = Int.bmod x (2^32) := by
  apply Int.bmod_eq_of_le <;> have := @Int.le_bmod x (2^32) (by decide) <;> have := @Int.bmod_lt x (2^32) (by decide) <;> omega
theorem v_subw (a b : Word) : sxWord (a.setWidth 32 - b.setWidth 32) = BitVec.ofInt 64 (Int.bmod (a.toInt - b.toInt) (2 ^ 32)) := by
  apply BitVec.eq_of_toInt_eq
  rw [sxWord, BitVec.toInt_signExtend_of_le (by omega), BitVec.toInt_ofInt, BitVec.toInt_sub, toInt_setWidth32, toInt_setWidth32, bmod_small]; simp
theorem v_mulw (a b : Word) : sxWord (a.setWidth 32 * b.setWidth 32) = BitVec.ofInt 64 (Int.bmod (a.toInt * b.toInt) (2 ^ 32)) := by
  apply BitVec.eq_of_toInt_eq
  rw [sxWord, BitVec.toInt_signExtend_of_le (by omega), BitVec.toInt_ofInt, BitVec.toInt_mul, toInt_setWidth32, toInt_setWidth32, bmod_small]; simp

theorem v_shl (a : Word) (n : Nat) : a <<< n = BitVec.ofNat 64 (a.toNat * 2 ^ n) := by
  apply BitVec.eq_of_toNat_eq; simp [Nat.shiftLeft_eq]
theorem v_shr (a : Word) (n : Nat) : (a >>> n).toNat = a.toNat / 2 ^ n := by simp [Nat.shiftRight_eq_div_pow]
theorem v_sar (a : Word) (n : Nat) : (a.sshiftRight n).toInt = a.toInt / 2 ^ n := by simp [BitVec.toInt_sshiftRight, Int.shiftRight_eq_div_pow]
theorem v_clz (a : Word) : leadingZeros a ≤ 64 ∧ (∀ j < 64, 64 - leadingZeros a ≤ j → a.getLsbD j = false) ∧
    (leadingZeros a < 64 → a.getLsbD (63 - leadingZeros a) = true) := by
  unfold leadingZeros
  by_cases h : a = 0
  · simp [h]
  · have hn : a.toNat ≠ 0 := by simpa [← BitVec.toNat_inj] using h
    have hl : Nat.log2 a.toNat < 64 := by rw [Nat.log2_lt hn]; exact a.isLt
    have h1 : a.toNat < 2 ^ (Nat.log2 a.toNat + 1) := Nat.lt_log2_self
    have h2 : 2 ^ Nat.log2 a.toNat ≤ a.toNat := Nat.log2_self_le hn
    simp only [h, if_false]
    refine ⟨by omega, ?_, ?_⟩
    · intro j hj hh
      rw [BitVec.getLsbD]
      apply Nat.testBit_lt_two_pow
      exact Nat.lt_of_lt_of_le h1 (Nat.pow_le_pow_right (by omega) (by omega))
    · intro _
      rw [show 63 - (63 - Nat.log2 a.toNat) = Nat.log2 a.toNat by omega, BitVec.getLsbD]
      exact Nat.testBit_log2 hn
theorem v_ctz (a : Word) : trailingZeros a ≤ 64 ∧ (∀ j < trailingZeros a, a.getLsbD j = false) ∧
    (trailingZeros a < 64 → a.getLsbD (trailingZeros a) = true) := by
  unfold trailingZeros
  cases h : (List.range 64).find? fun k => bitOf a k with
  | none =>
    simp only [Option.getD_none]
    refine ⟨by omega, fun j hj => ?_, by omega⟩
    have := List.find?_eq_none.1 h j (by simpa using hj)
    simpa [bitOf] using this
  | some x =>
    simp only [Option.getD_some]
    rw [List.find?_range_eq_some] at h
    obtain ⟨h1, h2, h3⟩ := h
    have h2 : x < 64 := by simpa using h2
    refine ⟨by omega, fun j hj => ?_, fun _ => by simpa [bitOf] using h1⟩
    have := h3 j hj
    simpa [bitOf] using this
theorem fieldMask0 (n : Nat) (hn : n ≤ 64) (x : Word) : (x &&& fieldMask 0 n).toNat = x.toNat % 2 ^ n := by
  have h : (2:Nat)^n ≤ 2^64 := Nat.pow_le_pow_right (by omega) hn
  have h2 : (2^n - 1) % 2^64 = 2^n - 1 := Nat.mod_eq_of_lt (by have := Nat.two_pow_pos n; omega)
  simp only [fieldMask, Nat.pow_zero, Nat.mul_one, BitVec.toNat_and, BitVec.toNat_ofNat, h2, Nat.and_two_pow_sub_one_eq_mod]
theorem v_bfx (x : Word) (p n : Nat) (hn : n ≤ 64) : ((x >>> p) &&& fieldMask 0 n).toNat = x.toNat / 2^p % 2^n := by
  rw [fieldMask0 n hn, v_shr]
/-- The sign extension of w bits, as an integer. -/
theorem sx_bmod (n x : Nat) (h : 0 < n) : sx n x = Int.bmod x (2 ^ n) := by
  have h2 : 2 ^ n = 2 * 2 ^ (n - 1) := by
    rw [show n = n - 1 + 1 by omega, Nat.pow_succ]; simp; omega
  have h3 := Nat.mod_lt x (show 0 < 2 ^ n from Nat.two_pow_pos n)
  simp only [sx, Int.bmod_def]
  have h4 : ((x : Int) % ((2 ^ n : Nat) : Int)) = ((x % 2 ^ n : Nat) : Int) := by omega
  rw [h4]
  have h5 : ((2 : Int) ^ n) = ((2 ^ n : Nat) : Int) := by simp
  split <;> split <;> omega
theorem v_sext (a : Word) (n : Nat) (h : n ≤ 32) (h0 : 0 < n) :
    (BitVec.ofInt 64 (sx n a.toNat)).toInt = Int.bmod a.toNat (2 ^ n) := by
  rw [BitVec.toInt_ofInt, sx_bmod _ _ h0]
  have hp : (2 : Nat) ^ n ≤ 2 ^ 32 := Nat.pow_le_pow_right (by omega) h
  have h1 := @Int.le_bmod (a.toNat : Int) (2 ^ n) (Nat.two_pow_pos n)
  have h2 := @Int.bmod_lt (a.toNat : Int) (2 ^ n) (Nat.two_pow_pos n)
  apply Int.bmod_eq_of_le <;> omega
theorem fm_bit (p n j : Nat) (hj : j < 64) : (fieldMask p n).getLsbD j = decide (p ≤ j ∧ j < p + n) := by
  rw [fieldMask, BitVec.getLsbD_ofNat]
  simp only [hj, decide_true, Bool.true_and]
  rw [← Nat.shiftLeft_eq, Nat.testBit_shiftLeft, Nat.testBit_two_pow_sub_one]
  by_cases h1 : p ≤ j
  · simp [h1]; omega
  · simp [h1]
theorem v_bfi (old x : Word) (p n j : Nat) (hj : j < 64) :
    ((old &&& ~~~fieldMask p n) ||| (x <<< p &&& fieldMask p n)).getLsbD j =
      if p ≤ j ∧ j < p + n then x.getLsbD (j - p) else old.getLsbD j := by
  simp only [BitVec.getLsbD_or, BitVec.getLsbD_and, BitVec.getLsbD_not, BitVec.getLsbD_shiftLeft, fm_bit p n j hj, hj]
  by_cases h1 : p ≤ j <;> by_cases h2 : j < p + n <;> simp [h1, h2]


end Sys2Proof.Machine
end

