-- ==== Sys2Proof/Machine/RegRead.lean ====
section
/-! DEFINITION. What a read of the device register window returns (00 R6, 01 R23, R27, R29 to R36, 15 R270, R271, 16 R290,
R291, 20 R329, 21 R343, 22 R349 to R353). A read changes nothing, so it is no step: it is a function of the state. -/

namespace Sys2Proof.Machine

namespace State

/-- A flag as a number. -/
def bit01 (b : Bool) : Nat := if b then 1 else 0

/-- The identity and status region (R31, R32). -/
def readIdentity (s : State) (off : Nat) : Nat :=
  if off = 0x0000 then 0x484B535A
  else if off = 0x0004 then 0x768
  else if off = 0x0008 then s.md.stepping.toNat
  else if off = 0x000C then 768 + 1 * 2 ^ 10
  else if off = 0x0010 then
    bit01 s.md.ready + 2 * bit01 s.md.bootfail + 4 * bit01 s.md.spareOut + 8 * bit01 s.md.locked + 16 * bit01 s.md.prov
  else if off = 0x0018 then (Config.commandRead 0x18 s.now).toNat % 2 ^ 32
  else if off = 0x0020 then s.deviceTime % 2 ^ 64
  else 0

/-- The code of a queue's state (R290). -/
def queueCode (q : QueueSt) : Nat :=
  match q with
  | .idle => 0 | .armed => 1 | .parsing => 2 | .waiting => 3 | .placing => 4 | .running => 5 | .draining => 6 | .parked => 7
  | .error => 8

/-- One queue's page (R290). Q_STALLCLR reads the stall bit it clears (DESIGN CHOICE; notes/assumptions 39). -/
def readQueue (s : State) (q off : Nat) : Nat :=
  let c := s.queue q
  if off = 0x000 then
    queueCode c.st + c.err.toNat * 2 ^ 8 + bit01 c.stall * 2 ^ 11 + c.head % 16 * 2 ^ 16 + bit01 c.short * 2 ^ 20
  else if off = 0x008 then c.prio % 8 + effective c % 8 * 2 ^ 3
  else if off = 0x00C then c.stallCfg.toNat
  else if off = 0x010 then c.doneSeq.toNat
  else if off = 0x014 then c.errSeq.toNat
  else if off = 0x018 then bit01 c.stall
  else 0

/-- The code of a context's state (R271). -/
def ctxCode (c : CtxSt) : Nat :=
  match c with
  | .free => 0 | .configured => 1 | .resident => 2 | .saved => 3 | .faulted => 4 | .resetting => 5 | .destroyed => 6

/-- One context's page (R270, R271, R329, R349); the key reads zero. -/
def readCtx (s : State) (x off : Nat) : Nat :=
  let c := s.ctx x
  if off = 0x000 then
    ctxCode c.st + bit01 (c.pend || c.destroyRec) * 2 ^ 4 + c.result.toNat * 2 ^ 5 + c.clusters.length % 256 * 2 ^ 8
  else if off = 0x004 then (Config.commandRead (0x200004 + 0x1000 * x) s.now).toNat % 16
  else if off = 0x008 then c.func.toNat
  else if off = 0x00C then c.policy.toNat
  else if off = 0x010 then c.part.toNat
  else if off = 0x018 then c.ptroot.toNat
  else if off = 0x020 then c.queues.toNat
  else if off = 0x028 then c.saveBase.toNat
  else if off = 0x030 then c.saveLen.toNat
  else if off = 0x040 then c.slices.toNat % 2 ^ 64
  else if off = 0x048 then c.slices.toNat / 2 ^ 64
  else if off = 0x100 then c.fault.toNat
  else if off = 0x108 then c.faultPc.toNat
  else if off = 0x110 then c.faultVal.toNat
  else if off = 0x180 then c.invVa.toNat
  else if off = 0x188 then c.invScope.toNat
  else if off = 0x18C then bit01 c.invBusy + 2 * bit01 c.invLost
  else 0

/-- The context table region (R270). -/
def readContexts (s : State) (off : Nat) : Nat :=
  if off < 0x40000 then s.readCtx (off / 0x1000) (off % 0x1000)
  else if off = 0x40000 then s.pool.length
  else 0

/-- The executive control region (R291). -/
def readExecutive (s : State) (off : Nat) : Nat :=
  if off = 0x000 then s.exe.lwBase.toNat
  else if off = 0x008 then s.exe.frame.toNat
  else if off = 0x010 then (List.range 64).foldl (fun a q => a + bit01 (s.queue q).stall * 2 ^ q) 0
  else if off = 0x018 then s.exe.wake.toNat
  else if off = 0x020 then Config.buildNumber.toNat
  else 0

/-- The debug and trace region (R350, R353). -/
def readDebug (s : State) (off : Nat) : Nat :=
  if off = 0x000 ∨ off = 0x008 then (Config.commandRead (0x400000 + off) s.now).toNat % 2 ^ (if off = 0 then 32 else 1)
  else if off = 0x004 then bit01 s.dbg.unlocked
  else if off = 0x010 then s.dbg.tgt.toNat
  else if 0x020 ≤ off ∧ off < 0x030 ∧ off % 4 = 0 then (mget 0 s.dbg.bp ((off - 0x020) / 4)).toNat
  else if off = 0x040 then s.dbg.trBase.toNat
  else if off = 0x048 then s.dbg.trLen.toNat
  else if off = 0x04C then s.dbg.trCtl.toNat
  else if off = 0x050 then s.dbg.trHead.toNat
  else if 0x080 ≤ off ∧ off < 0x100 then
    let i := mget Inject.idle s.dbg.fi ((off - 0x080) / 0x20)
    if off % 0x20 = 0 then i.ctl.toNat
    else if off % 0x20 = 8 then i.sel.toNat
    else if off % 0x20 = 0x10 then i.cyc.toNat
    else 0
  else 0

/-- The code of a link's state (R343). -/
def linkCode (l : LinkSt) : Nat :=
  match l with
  | .down => 0 | .training => 1 | .up => 2 | .degraded => 3 | .failed => 4

/-- The code of the state of device time (R343). -/
def timeCode (t : TimeSt) : Nat :=
  match t with
  | .free => 0 | .locking => 1 | .locked => 2 | .holdover => 3

/-- One link's page (R343). The millisecond of the lane error counts is one of the compute clock, 2,000,000 cycles, and not of device
time, which synchronisation moves (DESIGN CHOICE: R5 and R343 do not say which; notes/assumptions 59). -/
def readLink (s : State) (l off : Nat) : Nat :=
  let k := s.link l
  if off = 0x00 then linkCode k.st + k.lanes.toNat * 2 ^ 3 + k.why % 16 * 2 ^ 8
  else if off = 0x04 then bit01 k.en
  else if off = 0x08 then k.errThr.toNat
  else if 0x10 ≤ off ∧ off < 0x24 ∧ off % 4 = 0 then
    let n := (off - 0x10) / 4
    let ms := s.now / 2000000
    (if (mget 0 k.laneErr n) ≠ 0 ∧ k.laneMs = ms then mget 0 k.laneErr n else Config.laneErrors l n ms).toNat
  else if off = 0x28 then k.replay.toNat
  else 0

/-- The links region (R343). -/
def readLinks (s : State) (off : Nat) : Nat :=
  if off < 0x1000 then s.readLink (off / 0x100) (off % 0x100)
  else if off = 0x2000 then s.net.win
  else if off = 0x2004 then timeCode s.net.timeSt + s.net.master % 16 * 2 ^ 4 + bit01 s.net.grand * 2 ^ 8
  else if off = 0x2008 then s.net.prio1.toNat
  else if off = 0x2010 then s.net.offset.toNat
  else if 0x10000 ≤ off ∧ off < 0x20000 ∧ off % 4 = 0 then (mget 0 s.net.routes ((off - 0x10000) / 4)).toNat
  else 0

/-- The ownership, spares and alarm region (R33, R34, R36). -/
def readOwnership (s : State) (off : Nat) : Nat :=
  let o := s.md.own
  if off = 0x0004 then o.owner % 16 + o.pending % 16 * 2 ^ 4 + o.denied % 256 * 2 ^ 8
  else if off = 0x0008 ∨ off = 0x000C then
    (Config.commandRead (0x600000 + off) s.now).toNat % 2 ^ (if off = 8 then 4 else 1)
  else if off = 0x0100 then o.thresh.toNat
  else if off = 0x0104 then bit01 o.window
  else if 0x1000 ≤ off ∧ off < 0x1680 ∧ off % 2 = 0 then (mget 0 s.md.healthCore ((off - 0x1000) / 2)).toNat
  else if 0x1800 ≤ off ∧ off < 0x1910 ∧ off % 2 = 0 then (mget 0 s.md.healthSlice ((off - 0x1800) / 2)).toNat
  else if 0x1A00 ≤ off ∧ off < 0x1C20 ∧ off % 2 = 0 then (mget 0 s.md.healthChan ((off - 0x1A00) / 2)).toNat
  else if 0x2000 ≤ off ∧ off < 0x2180 ∧ off % 2 = 0 then (mget 0 s.md.mapCluster ((off - 0x2000) / 2)).toNat
  else if 0x2200 ≤ off ∧ off < 0x2300 ∧ off % 2 = 0 then (mget 0 s.md.mapSlice ((off - 0x2200) / 2)).toNat
  else if 0x2400 ≤ off ∧ off < 0x2600 ∧ off % 2 = 0 then (mget 0 s.md.mapChan ((off - 0x2400) / 2)).toNat
  else if off = 0x3000 then o.alarm.toNat
  else if off = 0x4000 then o.mbCmd.toNat
  else if off = 0x4004 then bit01 o.mbBusy + o.mbResult % 16 * 2 ^ 4
  else if off = 0x4008 then (Config.nonce o.nonces).toNat
  else if 0x5000 ≤ off ∧ off < 0x6000 then (readByte o.mbData (off - 0x5000)).toNat
  else 0

/-- The value of the register at an address of the window (R30): zero at an offset that no table lists, in a region that
the gated module does not answer for (R23), and, while the module is locked, in every region but the first and the last
(R29). A wide register is read by its 64-bit words. -/
def regRead (s : State) (addr : Nat) : Nat :=
  let off := addr % 0x100000
  let region := addr / 0x100000
  if region = 0 then s.readIdentity off
  else if region = 6 then s.readOwnership off
  else if s.md.locked then 0
  else if region = 1 then (if off < 0x40000 then s.readQueue (off / 0x1000) (off % 0x1000) else 0)
  else if region = 2 then s.readContexts off
  else if region = 3 then (if s.md.gated then 0 else s.readExecutive off)
  else if region = 4 then (if s.md.gated then 0 else s.readDebug off)
  else if region = 5 then s.readLinks off
  else 0

/-- A read of the window by a master (R24, R27, R36): any master reads every register, and nothing answers on a path that is not
up. Before bring-up is done the first and the last region answer; the others read zero over CXL, and give no answer on I3C. -/
def windowRead (s : State) (m : Master) (addr : Nat) : Option Nat :=
  if !s.answers m then none
  else if s.md.ready || s.md.locked || addr / 0x100000 = 0 || addr / 0x100000 = 6 then some (s.regRead addr)
  else if m.id ≠ 3 then some 0
  else none

end State

end Sys2Proof.Machine
end

