-- ==== Sys2Proof/Tests/Slice0.lean ====
section
/-! SUPPORT. Tests: words written out from the encoding tables of 05, ill-formed terms, and for the statements concrete states that
meet their hypotheses. -/

open Sys2Proof Sys2Proof.Machine Sys2Proof.Safety

namespace Sys2Proof.Tests

set_option Elab.async false

/-! ## Decoding: the words are written out field by field from R105 to R126 -/

def decodesTo (l : List (List Word × Instr)) : Bool :=
  l.all fun p => match decodeWords p.1 with | .ok i => i == p.2 | .error _ => false

def wordsScalar1 : List (List Word × Instr) :=
  [([0x100000000E000000], .nop .sb (some 6)),
   ([0x1011142FDE000000], .add .sb (some 6) (.reg (.s 17)) (.reg (.q 2)) (.const 0x3D)),
   ([0x0021142FDE000000], .sub .sa (some 6) (.reg (.s 17)) (.reg (.q 2)) (.const 0x3D)),
   ([0x1041142FDE000000], .mul .sb (some 6) (.reg (.s 17)) (.reg (.q 2)) (.const 0x3D)),
   ([0x0051142FDE000000], .mulh .sa (some 6) (.reg (.s 17)) (.reg (.q 2)) (.const 0x3D)),
   ([0x1061142FDE000000], .mulhu .sb (some 6) (.reg (.s 17)) (.reg (.q 2)) (.const 0x3D)),
   ([0x0071142FDE000000], .and .sa (some 6) (.reg (.s 17)) (.reg (.q 2)) (.const 0x3D)),
   ([0x1081142FDE000000], .or .sb (some 6) (.reg (.s 17)) (.reg (.q 2)) (.const 0x3D)),
   ([0x0091142FDE000000], .xor .sa (some 6) (.reg (.s 17)) (.reg (.q 2)) (.const 0x3D)),
   ([0x10A1142FDE000000], .andn .sb (some 6) (.reg (.s 17)) (.reg (.q 2)) (.const 0x3D)),
   ([0x00B1142FDE000000], .shl .sa (some 6) (.reg (.s 17)) (.reg (.q 2)) (.const 0x3D)),
   ([0x10C1142FDE000000], .shr .sb (some 6) (.reg (.s 17)) (.reg (.q 2)) (.const 0x3D)),
   ([0x00D1142FDE000000], .sar .sa (some 6) (.reg (.s 17)) (.reg (.q 2)) (.const 0x3D)),
   ([0x1141142FDE000000], .min .sb (some 6) (.reg (.s 17)) (.reg (.q 2)) (.const 0x3D))]

def wordsScalar2 : List (List Word × Instr) :=
  [([0x0151142FDE000000], .max .sa (some 6) (.reg (.s 17)) (.reg (.q 2)) (.const 0x3D)),
   ([0x1161142FDE000000], .minu .sb (some 6) (.reg (.s 17)) (.reg (.q 2)) (.const 0x3D)),
   ([0x0171142FDE000000], .maxu .sa (some 6) (.reg (.s 17)) (.reg (.q 2)) (.const 0x3D)),
   ([0x1201142FDE000000], .addw .sb (some 6) (.reg (.s 17)) (.reg (.q 2)) (.const 0x3D)),
   ([0x0211142FDE000000], .subw .sa (some 6) (.reg (.s 17)) (.reg (.q 2)) (.const 0x3D)),
   ([0x1221142FDE000000], .mulw .sb (some 6) (.reg (.s 17)) (.reg (.q 2)) (.const 0x3D)),
   ([0x0038081E80000001], .addi .sa (some 6) .latch (.latch .yb) 0xFFFFFFFF80000001),
   ([0x0118081E80000001], .andi .sa (some 6) .latch (.latch .yb) 0xFFFFFFFF80000001),
   ([0x0128081E80000001], .ori .sa (some 6) .latch (.latch .yb) 0xFFFFFFFF80000001),
   ([0x0138081E80000001], .xori .sa (some 6) .latch (.latch .yb) 0xFFFFFFFF80000001),
   ([0x10E1142E0000002B], .shli .sb (some 6) (.reg (.s 17)) (.reg (.q 2)) 0x2B),
   ([0x10F1142E0000002B], .shri .sb (some 6) (.reg (.s 17)) (.reg (.q 2)) 0x2B),
   ([0x1101142E0000002B], .sari .sb (some 6) (.reg (.s 17)) (.reg (.q 2)) 0x2B),
   ([0x0184300E7FFFFFFF], .li .sa (some 6) (.reg (.q 3)) 0x7FFFFFFF)]

def wordsScalar3 : List (List Word × Instr) :=
  [([0x019114200E000000], .mov .sa (some 6) (.reg (.s 17)) (.reg (.q 2))),
   ([0x01B114200E000000], .clz .sa (some 6) (.reg (.s 17)) (.reg (.q 2))),
   ([0x01C114200E000000], .ctz .sa (some 6) (.reg (.s 17)) (.reg (.q 2))),
   ([0x01D114200E000000], .popc .sa (some 6) (.reg (.s 17)) (.reg (.q 2))),
   ([0x01A1142FDE000005], .sel .sa (some 6) (.reg (.s 17)) 5 (.reg (.q 2)) (.const 0x3D)),
   ([0x01E114200E000001], .sext .sa (some 6) (.reg (.s 17)) .b16 (.reg (.q 2))),
   ([0x01F114200E000002], .zext .sa (some 6) (.reg (.s 17)) .b32 (.reg (.q 2))),
   ([0x0231142FDE000007], .lea .sa (some 6) (.reg (.s 17)) (.reg (.q 2)) (.const 0x3D) 7),
   ([0x024114200E000820], .bfx .sa (some 6) (.reg (.s 17)) (.reg (.q 2)) 32 32),
   ([0x025114200E001000], .bfi .sa (some 6) (.reg (.s 17)) (.reg (.q 2)) 0 64),
   ([0x0282342FDE000000], .cmp .sa (some 6) .ltu 3 (.reg (.q 2)) (.const 0x3D)),
   ([0x0291742EFFFFFFFE], .cmpi .sa (some 6) .lt 7 (.reg (.q 2)) 0xFFFFFFFFFFFFFFFE),
   ([0x02A040000E000011], .pand .sa (some 6) 4 1 2),
   ([0x02B040000E000011], .por .sa (some 6) 4 1 2)]

def wordsScalar4 : List (List Word × Instr) :=
  [([0x02C040000E000011], .pxor .sa (some 6) 4 1 2),
   ([0x02D040000E000001], .pnot .sa (some 6) 4 1),
   ([0x02E174200E000000], .stg .sa (some 6) (.g 7) (.reg (.q 2)))]

def wordsControl1 : List (List Word × Instr) :=
  [([0x501E0000FFFFFFF0], .br (some 6) 0xFFFFFFFFFFFFFFF0),
   ([0x502E000000000018], .call (some 6) 0x18),
   ([0x5030000E00000000], .ret (some 6)),
   ([0x5060000E00000000], .lexit (some 6)),
   ([0x5080000E00000000], .rret (some 6)),
   ([0x50B0000E00000000], .bar (some 6)),
   ([0x50C0000E00000000], .yield (some 6)),
   ([0x50D0000E00000000], .halt (some 6)),
   ([0x50442000E0000000], .jmp (some 6) (.reg (.q 2))),
   ([0x5054200E00000009], .loop (some 6) (.reg (.q 2)) 9),
   ([0x5071230700000000], .rcall (some 6) 0x123),
   ([0x507123DF00000000], .rcallAsync (some 6) 0x123 11),
   ([0x50962285A9780000], .wait (some 6) .lt (.reg (.s 17)) (.reg (.q 2)) (.const 0x14) 5),
   ([0x50AB420E00000000], .waitc (some 6) 11 (.reg (.q 2)))]

def wordsControl2 : List (List Word × Instr) :=
  [([0x50E0000EDEADBEEF], .trap (some 6) 0xDEADBEEF),
   ([0x50F0000E00000007], .brk (some 6) 7),
   ([0x51042007E0000000], .setfm (some 6) 7 (.reg (.q 2))),
   ([0x51142001E0000000], .setfcr (some 6) true (.reg (.q 2))),
   ([0x5121113FE0000000], .rdctl (some 6) (.s 17) 0x13F),
   ([0x51342010E0000000], .wrctl (some 6) 0x010 (.reg (.q 2)))]

def wordsTile1 : List (List Word × Instr) :=
  [([0x20114609540395C0], .tadd (.merge 1) .bf16 .sr (.row 5 6) (.idx 2 5) (.h 3)),
   ([0x20214609540395C0], .tsub (.merge 1) .bf16 .sr (.row 5 6) (.idx 2 5) (.h 3)),
   ([0x20314609540395C0], .tmul (.merge 1) .bf16 .sr (.row 5 6) (.idx 2 5) (.h 3)),
   ([0x20414609540395C0], .tfma (.merge 1) .bf16 .sr (.row 5 6) (.idx 2 5) (.h 3)),
   ([0x20514609540395C0], .tfms (.merge 1) .bf16 .sr (.row 5 6) (.idx 2 5) (.h 3)),
   ([0x2061460954039600], .tmin (.merge 1) .f16 (.row 5 6) (.idx 2 5) (.h 3)),
   ([0x2071460954039600], .tmax (.merge 1) .f16 (.row 5 6) (.idx 2 5) (.h 3)),
   ([0x2081460950009400], .tabs (.merge 1) .f32 (.row 5 6) (.idx 2 5)),
   ([0x2091460950009400], .tneg (.merge 1) .f32 (.row 5 6) (.idx 2 5)),
   ([0x20A000095403640E], .tcmp (.pred 2) .f32 .ge 2 (.idx 2 5) (.h 3)),
   ([0x20B1460954039003], .tsel (.merge 1) 3 (.row 5 6) (.idx 2 5) (.h 3)),
   ([0x20C1460950009788], .tcvt (.merge 1) .e4m3 .e5m2 .rtz (.row 5 6) (.idx 2 5)),
   ([0x2101460954039900], .iadd (.merge 1) .i64 (.row 5 6) (.idx 2 5) (.h 3)),
   ([0x2111460954039300], .isub (.merge 1) .ui8 (.row 5 6) (.idx 2 5) (.h 3))]

def wordsTile2 : List (List Word × Instr) :=
  [([0x2121460954039100], .imul (.merge 1) .i16 (.row 5 6) (.idx 2 5) (.h 3)),
   ([0x2131460954039200], .imac (.merge 1) .i8 (.row 5 6) (.idx 2 5) (.h 3)),
   ([0x2141460954039300], .iadds (.merge 1) .ui8 (.row 5 6) (.idx 2 5) (.h 3)),
   ([0x2151460954039200], .isubs (.merge 1) .i8 (.row 5 6) (.idx 2 5) (.h 3)),
   ([0x2161460954039900], .imin (.merge 1) .i64 (.row 5 6) (.idx 2 5) (.h 3)),
   ([0x2171460954039100], .imax (.merge 1) .i16 (.row 5 6) (.idx 2 5) (.h 3)),
   ([0x21B1460954039900], .ishl (.merge 1) .i64 (.row 5 6) (.idx 2 5) (.h 3)),
   ([0x21C1460954039100], .ishr (.merge 1) .i16 (.row 5 6) (.idx 2 5) (.h 3)),
   ([0x21D1460954039200], .isar (.merge 1) .i8 (.row 5 6) (.idx 2 5) (.h 3)),
   ([0x218800095C42D000], .iand (.zero 1) .yt (.idx 2 5) (.bcast (.reg (.q 2)))),
   ([0x219800095C42D000], .ior (.zero 1) .yt (.idx 2 5) (.bcast (.reg (.q 2)))),
   ([0x21A800095C42D000], .ixor (.zero 1) .yt (.idx 2 5) (.bcast (.reg (.q 2)))),
   ([0x222800095C42D000], .tperm (.zero 1) .yt (.idx 2 5) (.bcast (.reg (.q 2)))),
   ([0x21E0000954030915], .icmp .none .i64 .geu 1 (.idx 2 5) (.h 3))]

def wordsTile3 : List (List Word × Instr) :=
  [([0x2201460950009000], .tmov (.merge 1) (.row 5 6) (.idx 2 5)),
   ([0x2211460000009000], .tzero (.merge 1) (.row 5 6)),
   ([0x223146095000903F], .tsl (.merge 1) (.row 5 6) (.idx 2 5) 63),
   ([0x2241460950009440], .tred (.merge 1) .f32 .rne (.row 5 6) (.idx 2 5)),
   ([0x225C11095000093E], .tmvs .none .i64 (.s 17) (.idx 2 5) 62),
   ([0x2280000000007039], .mkand (.pred 3) 1 2 3),
   ([0x2290000000007039], .mkor (.pred 3) 1 2 3),
   ([0x22A0000000000009], .mknot .none 1 2),
   ([0x22BC11000000000C], .mkpop .none (.s 17) 3),
   ([0x22C000C420000002], .mkset .none 2 (.reg (.q 2))),
   ([0x22D1460000000000], .tiota .none (.row 5 6))]

def wordsPlane : List (List Word × Instr) :=
  [([0x701A68422797780E], .ppac (some 6) 2 19 (.reg (.q 2)) (.reg (.s 17)) 3 12 5 6 30),
   ([0x702A6C800100000E], .accz (some 6) 2 19 13 0x8001),
   ([0x703A628C9400000E], .accrd (some 6) 2 19 .f32 .rtz (.row 5 6) true),
   ([0x704A612B2000000E], .accwr (some 6) 2 19 .i64 (.idx 2 5) false),
   ([0x705A6C420000000E], .accld (some 6) 2 19 13 (.reg (.q 2))),
   ([0x706A6C420000000E], .accst (some 6) 2 19 13 (.reg (.q 2))),
   ([0x7078007FFF00000E], .accexp (some 6) 2 0x7FFF)]

def wordsMemory1 : List (List Word × Instr) :=
  [([0x3011142EFFFFFF00], .ld8 (some 6) (.reg (.s 17)) (.reg (.q 2)) 0xFFFFFFFFFFFFFF00),
   ([0x3021142EFFFFFF00], .ld8u (some 6) (.reg (.s 17)) (.reg (.q 2)) 0xFFFFFFFFFFFFFF00),
   ([0x3031142EFFFFFF00], .ld16 (some 6) (.reg (.s 17)) (.reg (.q 2)) 0xFFFFFFFFFFFFFF00),
   ([0x3041142EFFFFFF00], .ld16u (some 6) (.reg (.s 17)) (.reg (.q 2)) 0xFFFFFFFFFFFFFF00),
   ([0x3051142EFFFFFF00], .ld32 (some 6) (.reg (.s 17)) (.reg (.q 2)) 0xFFFFFFFFFFFFFF00),
   ([0x3061142EFFFFFF00], .ld32u (some 6) (.reg (.s 17)) (.reg (.q 2)) 0xFFFFFFFFFFFFFF00),
   ([0x3071142EFFFFFF00], .ld64 (some 6) (.reg (.s 17)) (.reg (.q 2)) 0xFFFFFFFFFFFFFF00),
   ([0x308FD42E00000100], .st8 (some 6) (.reg (.q 2)) 0x100 (.const 0x3D)),
   ([0x309FD42E00000100], .st16 (some 6) (.reg (.q 2)) 0x100 (.const 0x3D)),
   ([0x30AFD42E00000100], .st32 (some 6) (.reg (.q 2)) 0x100 (.const 0x3D)),
   ([0x30BFD42E00000100], .st64 (some 6) (.reg (.q 2)) 0x100 (.const 0x3D)),
   ([0x310146429FFFFFE0], .tld (.merge 1) (.row 5 6) (.reg (.q 2)) 0xFFFFFFFFFFFFFFE0),
   ([0x311C114290000040], .tst (.merge 1) (.bcast (.reg (.s 17))) (.reg (.q 2)) 0x40),
   ([0x31210642D0000020], .tldw (.zero 1) (.row 4 6) (.reg (.q 2)) 0x20)]

def wordsMemory2 : List (List Word × Instr) :=
  [([0x3131064290000020], .tstw (.merge 1) (.row 4 6) (.reg (.q 2)) 0x20),
   ([0x3148004290950003], .tldg (.merge 1) .yt (.reg (.q 2)) (.idx 2 5) 3),
   ([0x3154034200000000], .tldb .none (.h 3) (.reg (.q 2)) 0),
   ([0x318A8C000000000E], .xfence (some 6) 0x15 3),
   ([0x319000000000000E], .rel (some 6)),
   ([0x31A000000000000E], .wfence (some 6)),
   ([0x31B0042E00000100], .pref (some 6) (.reg (.q 2)) 0x100),
   ([0x3101464290000020, 0x6000000000000001], .tld (.merge 1) (.row 5 6) (.reg (.q 2)) 0x100000020)]

def wordsEngine : List (List Word × Instr) :=
  [([0x401B80DAABCD000E], .cpy (some 6) 11 true 0xABCD (some 5) (some 2)),
   ([0x402BCBD0ABCD000E], .cpya (some 6) 11 true true 11 0xABCD (some 5)),
   ([0x403B000AABCD000E], .cpyp (some 6) 11 false 0xABCD (some 2)),
   ([0x404B8080ABCD000E], .cpyu (some 6) 11 true 0xABCD (some 0)),
   ([0x405B8080ABCD000E], .cpyl (some 6) 11 true 0xABCD (some 0)),
   ([0x406B02000005000E], .cpyx (some 6) 11 false 2 5 none),
   ([0x407B8000ABCD000E], .sig (some 6) 11 true 0xABCD),
   ([0x408B8000ABCD000E], .ixst (some 6) 11 true 0xABCD),
   ([0x409B8000ABCD000E], .ixend (some 6) 11 true 0xABCD),
   ([0x40AB000000CD000E], .marr (some 6) 11 false 0xCD)]

theorem test_decode_scalar1 : decodesTo wordsScalar1 = true := by decide +kernel
theorem test_decode_scalar2 : decodesTo wordsScalar2 = true := by decide +kernel
theorem test_decode_scalar3 : decodesTo wordsScalar3 = true := by decide +kernel
theorem test_decode_scalar4 : decodesTo wordsScalar4 = true := by decide +kernel
theorem test_decode_control1 : decodesTo wordsControl1 = true := by decide +kernel
theorem test_decode_control2 : decodesTo wordsControl2 = true := by decide +kernel
theorem test_decode_tile1 : decodesTo wordsTile1 = true := by decide +kernel
theorem test_decode_tile2 : decodesTo wordsTile2 = true := by decide +kernel
theorem test_decode_tile3 : decodesTo wordsTile3 = true := by decide +kernel
theorem test_decode_plane : decodesTo wordsPlane = true := by decide +kernel
theorem test_decode_memory1 : decodesTo wordsMemory1 = true := by decide +kernel
theorem test_decode_memory2 : decodesTo wordsMemory2 = true := by decide +kernel
theorem test_decode_engine : decodesTo wordsEngine = true := by decide +kernel

/-- One instruction of every syllable constructor. -/
def samples : List Instr :=
  (wordsScalar1 ++ wordsScalar2 ++ wordsScalar3 ++ wordsScalar4 ++ wordsControl1 ++ wordsControl2 ++
    wordsTile1 ++ wordsTile2 ++ wordsTile3 ++ wordsPlane ++ wordsMemory1 ++ wordsMemory2 ++ wordsEngine).map (·.2)

/-- Words the decoder refuses, with the subcode of R106 to R129 that each raises. -/
def refuses (l : List (Word × Nat)) : Bool :=
  l.all fun p => match decodeWords [p.1] with | .ok _ => false | .error e => e.sub == p.2

theorem test_refused_words : refuses
  [(0x2000000000000000, 1), (0x3000000000000000, 1), (0x5140000000000000, 1), (0x7080000000000000, 1),
   (0x2010000000000040, 1), (0x0010000001000000, 2), (0x0010000000000001, 2), (0x0283000000000000, 2),
   (0x6010000000000000, 2), (0x3180000000000000, 2), (0x4010010000000000, 2), (0x5070000800000000, 2),
   (0x3120400000000000, 5), (0x0012000000000000, 8)] = true := by decide +kernel

/-! ## Ill-formed terms: one for each check of WellFormed -/

def s1 : SSrc := .reg (.s 1)
def s2 : SSrc := .reg (.s 2)
def rA : RowSpec := .row 0 1
def rB : RowSpec := .row 1 2
def lm0 : LinkMsg := { va := 0, ctx := 0, op := 0, tag := 0, seq := 0, data := [] }

theorem test_ill_formed : (
  ([.bfx .sa none (.reg (.s 1)) s1 60 5, .bfi .sa none (.reg (.s 1)) s1 0 0, .rdctl none (.s 1) 0x002, .wrctl none 0x050 s1,
    .tadd .none .i32 .rne rA rA rB, .tadd .none .f32 .rne (.bcast s1) rA rB, .tmin .none .i8 rA rA rB, .tabs .none .i8 rA rA,
    .tcmp (.merge 0) .f32 .eq 0 rA rB, .tcmp .none .f32 .ltu 0 rA rB, .tsel .none 0 (.bcast s1) rA rB,
    .tcvt .none .f32 .i32 .rne (.bcast s1) rA, .iadd .none .f32 rA rA rB, .imul .none .i64 rA rA rB,
    .iand .none (.bcast s1) rA rB, .ishl .none .ui8 rA rA rB, .icmp (.zero 1) .i32 .eq 0 rA rB, .tmov .none (.bcast s1) rA,
    .tiota (.merge 0) rA, .tred .none .i32 .rne rA rA, .tmvs .none .i64 (.s 1) rA 3, .mkand (.merge 0) 0 1 2,
    .accz none 0 31 2 0, .accrd none 0 0 .i16 .rne rA false, .accrd none 0 0 .i64 .rne rA true,
    .accwr none 0 0 .f32 rA false, .tld .none rA s1 3, .tst (.zero 0) rA s1 0, .tldw .none (.row 1 0) s1 0,
    .tstw (.zero 0) (.row 0 0) s1 0, .tldg .none rA s1 .yt 0, .xfence none 0 1, .clusterFailure 192,
    .correctedEccEvent .core 832, .correctedEccEvent .slice 136, .correctedEccEvent .chan 272, .modReset ⟨0, 0⟩ 0,
    .readBlock ⟨1, 0⟩ 2, .writeBlock ⟨1, 0⟩ 1, .readFlashLog ⟨1, 0⟩ 4, .writeImageChunk ⟨1, 0⟩ 3, .commitImageSlot ⟨1, 0⟩ 6,
    .mbCmdBadCommand ⟨1, 0⟩ 5, .writeMessage 0 lm0] : List Instr).all fun i => !WellFormed i) = true := by
  decide +kernel

theorem test_samples_well_formed : (samples.all fun i => WellFormed i) = true := by decide +kernel

/-! ## Concrete states -/

def idleWord : Word := 0x8000000000000000

/-- A running task of launch 1 in context 0: eight nops, each its own group, no syllable in flight. -/
def task0 : CoreTask :=
  { CoreTask.empty 0 with
    id.launch := 1, id.cnt := 2,
    code.imem := [(0, idleWord), (1, idleWord), (2, idleWord), (3, idleWord), (4, 1), (5, idleWord), (6, idleWord), (7, idleWord)],
    code.textLen := 6, code.codeLen := 8, code.nAccs := 4, code.interval := 100,
    r.s := [(1, 5), (2, 64)], r.p := [(2, true), (3, true)], r.b := { Bank.zero with p := [(6, true), (7, true)] },
    pipe.grp := { Group.idle with next := 1, present := 0x20 }, ctl.st := .running }

/-- A page table: root at 0x100000, one leaf of 1 GiB that maps addresses to themselves. -/
def table0 : Memory := [(0x100000, 1), (0x100001, 0x10), (0x100002, 0x10), (0x101000, 0x0F)]

def ctx0 : Ctx :=
  { Ctx.free with
    st := .resident, cPtroot := 0x100000, cPart := 0x0101, part := 0x0101, cQueues := 1, clusters := [0], cSaveLen := 0x10000000 }

/-- A booted, ready module that master 1 owns, with one resident context. -/
def state0 : State :=
  { State.reset with
    t := task0, mem.hdm := table0, md.booted := true, md.ready := true, md.cxlUp := true, md.own.owner := 1, exe.ctxs := [(0, ctx0)] }

def withTask (t : CoreTask) : State := { state0 with t := t }

/-- The predicate that guards the samples is clear. -/
def off0 : CoreTask := { task0 with r.p := [], r.b := Bank.zero }

theorem test_samples_act : (samples.all fun i => state0.t.outstanding i == none && !guardOff state0.t i) = true := by
  decide +kernel

theorem test_guards_hold : state0.t.guardOn none = true ∧ state0.t.guardOn (some 6) = true ∧ state0.t.tguardOn .none = true ∧
    (withTask off0).t.guardOn (some 6) = false := by decide +kernel

theorem test_guard_off : guardOff off0 (.add .sa (some 6) .latch s1 s2) = true ∧ guardOff off0 (.halt (some 6)) = true ∧
    guardOff off0 (.tadd (.pred 3) .f32 .rne rA rA rB) = true ∧ guardOff off0 (.ppac (some 6) 0 0 s1 s2 0 0 0 0 0) = true ∧
    guardOff off0 (.st64 (some 6) s1 0 s2) = true ∧ guardOff off0 (.cpy (some 6) 0 false 0 none none) = true := by
  decide +kernel

/-! ## What the hypotheses of the scalar and control statements ask -/

theorem test_scalar_hypotheses : (state0.t.pred 6 = true ∧ state0.t.pred 0 = false) ∧ (1 ≤ (64 : BitVec 7).toNat ∧
    (0 : BitVec 6).toNat + (64 : BitVec 7).toNat ≤ 64) := by decide +kernel

theorem test_results_in_flight : task0.pipe.pend = [] ∧ task0.pipe.loads = [] ∧ task0.lm.plane = [] ∧
    ∀ k < 8, 1 ≤ task0.latency k := by decide +kernel

theorem test_transfer_targets : task0.isStart 7 = true ∧ task0.isStart 5 = false ∧ task0.isStart 16384 = false ∧
    (task0.src s1).toNat < task0.code.textLen ∧ task0.code.textLen ≤ (task0.src s2).toNat ∧ task0.r.calls.length < 16 := by
  decide +kernel

def called (level depth n : Nat) : CoreTask :=
  { task0 with r.calls := List.replicate n { level, depth, ret := 3 } }

theorem test_call_depths : 16 ≤ (called 0 0 16).r.calls.length ∧
    (called 0 0 1).r.calls = { level := 0, depth := 0, ret := 3 } :: [] ∧ (called 0 0 1).level = 0 ∧
    (called 0 0 1).r.b.loops.length = 0 ∧ (0 ≠ (called 0 1 1).level ∨ 1 ≠ (called 0 1 1).r.b.loops.length) ∧
    (∀ e ∈ (called 1 0 1).r.calls.head?, e.level ≠ (called 1 0 1).level) := by decide +kernel

def ent (last idx count : Nat) : LoopEnt := { count, idx, first := 1, last }
def looped (l : List LoopEnt) : CoreTask := { task0 with r.b.loops := l }

theorem test_loop_cases : task0.pipe.grp.start < 2 ∧ task0.isStart 2 = true ∧
    (BitVec.ofNat 64 task0.pipe.grp.start + (2 : BitVec 32).signExtend 64).toNat = 2 ∧
    (task0.src (.const 0)).toNat = 0 ∧ 2 ^ 32 ≤ (task0.src (.const 0x3F)).toNat ∧ (task0.src s1).toNat ≠ 0 ∧
    (task0.src s1).toNat < 2 ^ 32 ∧ task0.r.b.loops.length < 6 ∧ 6 ≤ (looped (List.replicate 6 (ent 2 0 1))).r.b.loops.length := by
  decide +kernel

theorem test_loop_exits : task0.r.b.loops = [] ∧ (looped [ent 2 0 3]).r.b.loops = ent 2 0 3 :: [] ∧
    (∀ c ∈ (looped [ent 2 0 3]).r.calls.head?, c.level = 0 → c.depth ≠ 1) ∧
    ∃ c ∈ ({ called 0 1 1 with r.b.loops := [ent 2 0 3] }).r.calls.head?, c.level = 0 ∧ c.depth = ([] : List LoopEnt).length + 1 :=
  ⟨rfl, rfl, by decide +kernel, ⟨_, rfl, rfl, rfl⟩⟩

theorem test_sequencer_choice : (looped [ent 0 2 3, ent 0 0 3]).r.b.loops = [ent 0 2 3] ++ [ent 0 0 3] ∧
    (∀ e ∈ [ent 0 2 3], e.last = task0.pipe.grp.start ∧ e.count ≤ e.idx + 1) ∧ task0.pipe.grp.xfer = none ∧
    (ent 0 0 3).last = task0.pipe.grp.start ∧ (ent 0 0 3).idx + 1 < (ent 0 0 3).count ∧
    (∀ e ∈ [ent 7 0 3].head?, e.last ≠ task0.pipe.grp.start) := by decide +kernel

def body0 : Routine :=
  { base := 6, len := 2, lat := defaultLat, pmask := 0, level := 0, cycles := 4, clauses := [], unit := none, bound := false }
def unit0 : Routine := { body0 with unit := some .rcp, bound := true }
def frame0 : Frame :=
  { idx := 0, ret := 1, bank := Bank.zero, lat := defaultLat, async := some 2, ranges := [], saved := none, flags := 0, back := none }
def routined (fr : List Frame) : CoreTask := { task0 with code.routines := [body0, unit0], r.frames := fr }

theorem test_routine_calls : (routined []).routineOf (0 : BitVec 12).toNat = some body0 ∧ (routined []).level < 4 ∧
    (match (routined []).callRanges 0 body0 with | .ok l => l == [] | .error _ => false) = true ∧
    (routined []).eng.natives = [] ∧ CoreTask.isNative body0 = false ∧ (routined []).routineOf (1 : BitVec 12).toNat = some unit0 ∧
    unit0.bound = true ∧ unit0.unit = some .rcp ∧
    (match (routined []).callRanges 1 unit0 with | .ok l => l == [] | .error _ => false) = true ∧
    4 ≤ (routined (List.replicate 4 frame0)).level ∧ (routined []).r.frames = [] ∧ (routined [frame0]).r.frames = frame0 :: [] ∧
    frame0.saved = none ∧ frame0.back = none := by decide +kernel

theorem test_routine_acts : (withTask (routined [])).t.outstanding (.rcall none 0) = none ∧
    (withTask (routined [frame0])).t.outstanding (.rret none) = none ∧
    (withTask (routined [frame0])).t.guardOn none = true := by decide +kernel

/-- A word of 7 at scratchpad address 64. -/
def word0 : CoreTask := { task0 with lm.scratch := [(64, 7)] }

theorem test_wait_cases : (word0.src s2).toNat % 4 = 0 ∧ (word0.src s2).toNat + 4 ≤ word0.code.share - 0x8000 ∧
    word0.rangeFault 64 4 = none ∧ (BitVec.ofNat 32 (word0.scratchNat 64 4) : BitVec 32) = (word0.src (.const 7)).setWidth 32 ∧
    (BitVec.ofNat 32 (word0.scratchNat 64 4) : BitVec 32) ≠ (word0.src (.const 8)).setWidth 32 ∧
    (word0.src s1).toNat % 4 ≠ 0 ∧ word0.code.share - 0x8000 < (word0.src (.const 0x3C)).toNat + 4 ∧
    (word0.src (.const 0x3C)).toNat % 4 = 0 ∧ word0.ctr 3 ≤ (word0.src s1).toNat % 2 ^ 32 ∧
    (word0.src (.const 0)).toNat % 2 ^ 32 < ({ word0 with r.w := [(3, 1)] }).ctr 3 := by decide +kernel

/-- Another task of the same group, on core 1. -/
def mate0 (arrived : Bool) : CoreTask :=
  { task0 with id.core := 1, id.cidx := 1, id.idx := 1, pipe.barArr := arrived }

theorem test_barrier_cases : (∀ p ∈ state0.rest, State.mates state0.t p = false) ∧ .bar ∉ state0.t.pipe.waits ∧
    (∃ p ∈ [mate0 false], State.mates task0 p = true ∧ p.id.core ≠ task0.id.core ∧ p.pipe.barArr = false ∧ p.ctl.st ≠ .halted) ∧
    (∀ p ∈ [mate0 true], State.mates task0 p = true → p.pipe.barArr = true ∨ p.ctl.st = .halted) :=
  ⟨by decide +kernel, by decide +kernel, ⟨_, List.mem_singleton.mpr rfl, by decide +kernel⟩, by decide +kernel⟩

def native0 : NativeCall :=
  { idx := 1, unit := .rcp, args := [], fcr := 0, fm := [], ctr := some 2, ranges := [], ord := 0, start := 0, flags := 0x3F,
    regs := task0.r, lm := task0.lm, pend := [], loads := [], late := 0, since := 0 }
def trap0 : Trap := { cause := 0x0F, sub := 0, cls := 5, val := 7, reason := 0 }

theorem test_halt_trap_cases : task0.r.frames = [] ∧ task0.id.copies ≤ 1 ∧ task0.eng.natives = [] ∧
    ({ task0 with eng.natives := [native0] }).eng.natives ≠ [] ∧ ({ task0 with id.copies := 2 }).id.copies = 2 ∧
    (routined [frame0]).r.frames ≠ [] ∧
    ({ task0 with pipe.grp.soft := some trap0 }).pipe.grp.soft = some trap0 ∧ task0.pipe.grp.failed = 0 ∧
    task0.pipe.waits = [] ∧ trap0.sub = 0 ∧ trap0.cls = 5 ∧ (trap0.cause = 0x0F ∨ trap0.cause = 0x10) := by decide +kernel

theorem test_trap_bounds : 0x0F < 256 ∧ trap0.cause < 256 ∧ trap0.sub < 16 ∧ trap0.cls < 8 ∧ .meet .marr ∉ task0.pipe.waits ∧
    task0.pipe.grp.trap = none ∧ trap0.cls ≠ ({ trap0 with cls := 3 }).cls ∧ task0.pipe.grp.cycle = task0.pipe.cycle := by
  decide +kernel

theorem test_control_register_cases : task0.r.frames = [] ∧ task0.id.copies ≤ 1 ∧
    task0.outstanding (.wrctl none 0x100 s1) = none ∧ task0.outstanding (.rdctl none (.s 1) 0x13F) = none := by decide +kernel

/-! ## Tile, plane and accumulator hypotheses -/

def ok (o : Option RowAt) (d : RowAt) : Bool := o == some d
def stoch0 : CoreTask := { task0 with r.fcr := 2 }

theorem test_row_hypotheses : (∀ n r, RowAt.h 3 = .tile n r → r < 16) ∧ ok (task0.rowAt rA) (.tile 0 1) = true ∧ ok (task0.rowAt (.h 3)) (.h 3) = true ∧
    task0.rowsOk [rA, rB, .bcast s1, .yt] = true ∧ (task0.turnDenied .f32 (task0.tlanes .none) 64).isNone = true ∧
    (stoch0.laneDenied [0, 63]).isNone = true ∧ stoch0.rmode .fcr = .sr ∧ task0.rmode .rne ≠ .sr ∧
    (ElemTy.float? .f32).isSome = true ∧ (ElemTy.float? .i32).isNone = true ∧ 2 ^ 6 = ElemTy.count .f32 :=
  ⟨nofun, by decide +kernel⟩

theorem test_exact_number_hypotheses : (-3 : Int) ≤ -3 ∧ (-3 : Int) ≤ 4 ∧ (-3 : Int) + (-3) ≤ -6 ∧ 0x3F800000 < 2 ^ ElemTy.width .f32 ∧
    (match ElemTy.float? .f32 with | some f => !(f.read false 0x3F800000).isNaN | none => false) = true := by decide +kernel

/-- Format records of four planes in fm0 and fm1; the B block in the next bank group. -/
def plane0 : CoreTask := { task0 with r.fm := [(0, 0x84), (1, 0x84)], r.s := [(1, 5), (2, 64), (3, 0x20000)] }

theorem test_plane_hypotheses : plane0.accOk 3 = true ∧ fmBad (plane0.fm 0) = false ∧ fmBad (plane0.fm 2) = true ∧
    3 < fmW (plane0.fm 0) ∧ fmW (plane0.fm 0) ≤ 4 ∧
    (0x20000 % 512 = 0 ∧ 0x20000 + fmS (plane0.fm 1) * 512 + 64 ≤ plane0.code.share - 0x8000) ∧
    (∀ p ∈ readsA (plane0.fm 0) 0 3 31, ∀ q ∈ readsB (plane0.fm 1) 0x20000 0, bankGroup p ≠ bankGroup q) ∧
    (∀ p ∈ readsA (plane0.fm 0) 0 3 31 ++ readsB (plane0.fm 1) 0x20000 0, (plane0.rangeFault p 1).isNone = true) ∧
    (∀ p ∈ readsA (plane0.fm 0) 0 3 31, mget 0 plane0.lm.tags (p / 2048) = declaredTag (plane0.fm 0)) ∧
    bankGroup 0 = bankGroup 0x1000 := by decide +kernel

theorem test_accumulator_hypotheses : (256 % 256 = 0 ∧ 256 + 256 * 32 ≤ task0.code.share - 0x8000) ∧
    (task0.rangeFault 256 (256 * 32)).isNone = true ∧ (task0.src s1).toNat % 256 ≠ 0 ∧
    (stoch0.laneDenied ((List.range 32).map fun j => 2 * j)).isNone = true ∧ 0 + 32 ≤ 32 ∧ RowAt.tile 0 1 ≠ .yt ∧
    task0.lm.plane = [] ∧ task0.lm.undo = [] ∧ task0.lm.inbox = [] := by decide +kernel

/-! ## Memory hypotheses -/

/-- s4 holds a mapped global address, s5 an address no page maps. -/
def global0 : CoreTask := { task0 with r.s := [(1, 5), (2, 64), (4, 0x1000000), (5, 0x400000000000)] }
def s4 : SSrc := .reg (.s 4)

def translates (s : State) (va pa : Nat) (n : Need) : Bool :=
  match s.translate 0 0 va n with | .ok p => p.1 == pa && (p.2.leaseOf 0 (pa / 128)).isNone | .error _ => false
def faultsWalk (s : State) (va : Nat) : Bool :=
  match s.translate 0 0 va .r with | .ok _ => false | .error r => r == 1
def nowhere (s : State) (a : Nat) : Bool := match s.place a with | .none => true | _ => false

theorem test_load_hypotheses : (global0.src s2 + 0).toNat % 8 = 0 ∧ (global0.src s2 + 0).toNat < global0.usable ∧
    (global0.rangeFault 64 8).isNone = true ∧ (∀ k < 8, (64 + k) / 32 ∉ global0.lm.bad) ∧
    (64 + 0) / 32 ∈ ({ global0 with lm.bad := [2] }).lm.bad ∧ (global0.src s1 + 0).toNat % 2 ≠ 0 ∧
    nowhere (withTask global0) global0.usable = true ∧ nowhere (withTask global0) (2 ^ 48) = true ∧
    translates (withTask global0) 0x1000000 0x1000000 .r = true ∧ translates (withTask global0) 0x1000000 0x1000000 .w = true ∧
    faultsWalk (withTask global0) 0x400000000000 = true ∧ 2 ^ 24 ≤ (global0.src s4 + 0).toNat ∧ (global0.src s4 + 0).toNat < 2 ^ 48 ∧
    global0.usable ≤ 0x1000000 ∧ global0.r.frames = [] ∧ global0.held.sectors = [] ∧ global0.holds = false := by decide +kernel

theorem test_row_access_hypotheses : ok (task0.rowAt (.row 2 15)) (.tile 2 15) = true ∧
    ok (task0.rowAt (pairSpec (.row 2 15))) (.tile 3 15) = true ∧ task0.usable ≤ 2 ^ 24 ∧ task0.lm.bad = [] ∧
    (task0.src s2 + 0).toNat % 32 = 0 ∧ (task0.src s1 + 0).toNat % 32 ≠ 0 ∧ task0.tlanes .none ≠ 0 ∧
    (∀ k < 64, 64 + 256 + 4 * k < task0.usable ∧ (task0.rangeFault (64 + 4 * k) 4).isNone = true) ∧
    (∀ k < 64, ∀ n ≤ 32, (task0.rangeFault (64 + 4 * k) n).isNone = true) ∧ task0.rowsOk [.row 2 15, pairSpec (.row 2 15)] = true ∧
    (∀ k < 64, operand task0 .i32 rA k = 0) := by decide +kernel

/-! ## Engines -/

/-- Staging registers of a one-row copy of 64 bytes from 64 to 128. -/
def copyTask (d : FMap Word) (n : FMap Word) : CoreTask := { task0 with r.dreg := d, r.nreg := n }
def copy0 : CoreTask := copyTask [(0, 64), (1, 128), (2, 0x10000000040), (5, 256), (6, 9)] []
def far0 : CoreTask := copyTask [(0, 64), (1, 0x2000000001000000), (2, 0x10000000040)] []
def pack0 : CoreTask := copyTask [(0, 0x8000), (1, 0x1000), (2, 0x200000000200), (3, 512), (4, 512), (7, 0x40000084)] []
def unpack0 : CoreTask := copyTask [(0, 0x1000), (1, 0x8000), (2, 0x200000000200), (3, 512), (4, 512), (7, 0x40000084)] []
def gather0 : CoreTask := copyTask [(0, 0x1000), (1, 0x2000), (2, 64), (3, 64), (4, 64)] [(0, 0x400), (1, 2), (2, 8)]
def arrive0 : CoreTask := copyTask [(5, 256), (6, 9), (7, 0x100000000)] []

def fires (t : CoreTask) (op : EngOp) (cw : Bool) (tag : BitVec 16) : Bool :=
  let s := withTask t
  let c := s.capture op 3 cw false 0 tag none none
  (s.fireTrap c).isNone && s.counted c != 0

theorem test_commands_fire : fires copy0 .cpy true 0x8003 = true ∧ fires copy0 .cpya true 7 = true ∧ fires pack0 .cpyp false 7 = true ∧
    fires unpack0 .cpyu false 7 = true ∧ fires far0 .cpyl false 7 = true ∧ fires far0 .cpyx false 7 = true ∧
    fires far0 .sig false 7 = true ∧ fires gather0 .ixst false 7 = true ∧ fires gather0 .ixend false 7 = true ∧
    fires arrive0 .marr true 3 = true := by decide +kernel

def cmd0 (op : EngOp) (ord : Nat) : Cmd :=
  { (withTask copy0).capture op 3 true false 0 7 none none with ord, running := true }
def full0 : CoreTask := { copy0 with eng.cmds := List.replicate 16 (cmd0 .cpy 0), pipe.marrs := [0, 1, 2, 3, 4, 5], pipe.ord := 1 }

theorem test_command_room : (∃ x ∈ ({ copy0 with eng.cmds := [cmd0 .ixst 0] }).eng.cmds, x.held = false ∧ cmdPath x = 3) ∧
    (copy0.eng.cmds.filter fun x => !x.held).length < 16 ∧ copy0.pipe.marrs.length < 6 ∧
    16 ≤ (full0.eng.cmds.filter fun x => !x.held).length ∧ 6 ≤ full0.pipe.marrs.length ∧
    ((withTask { copy0 with r.dreg := [(1, 1)] }).fireTrap ((withTask { copy0 with r.dreg := [(1, 1)] }).capture .cpy 0 false false
      0 0 none none)).isSome = true :=
  ⟨⟨_, List.mem_singleton.mpr rfl, by decide +kernel⟩, by decide +kernel⟩

theorem test_copy_checks : ¬((0x3000000000000000 : Word).toNat / 2 ^ 60 ≤ 1) ∧ (copy0.dval 0).toNat / 2 ^ 60 ≤ 1 ∧
    (∀ k ∈ [0, 1, 3, 4], (copy0.dval k).toNat % 4 = 0) ∧ (copy0.dval 2).toNat / 2 ^ 40 = 1 ∧ 0 < (copy0.dval 2).toNat % 2 ^ 40 ∧
    (copy0.dval 1).toNat + 64 ≤ copy0.usable ∧ (0xB7FFC : Nat) < copy0.usable ∧ copy0.usable < 0xB7FFC + 64 ∧
    copy0.ctr 3 + 64 < 2 ^ 32 ∧ 2 ^ 32 ≤ ({ copy0 with r.w := [(3, 0xFFFFFFFF)] }).ctr 3 + 64 := by decide +kernel

def running0 : CoreTask := { copy0 with eng.cmds := [{ cmd0 .cpy 0 with total := 1 }] }
def whole0 : CoreTask := { copy0 with eng.cmds := [{ cmd0 .cpy 0 with total := 1, units := 1 }] }

theorem test_copy_runs : ((withTask running0).taskOn 0 == some running0) = true ∧ running0.eng.cmds[0]? = some { cmd0 .cpy 0 with total := 1 } ∧
    running0.active = true ∧ running0.pipe.freeze = 0 ∧ (cmd0 .cpy 0).tag.toNat < 2 ^ 15 ∧
    (∀ x ∈ running0.eng.cmds, x.ord = 0 → x = { cmd0 .cpy 0 with total := 1 }) ∧ 1 = (64 + 255) / 256 ∧
    whole0.eng.cmds[0]? = some { cmd0 .cpy 0 with total := 1, units := 1 } ∧ (cmd0 .cpy 0).cw = true ∧ (cmd0 .cpy 0).pub = false ∧
    ((cmd0 .cpy 0).d.getD 5 0).toNat + 4 ≤ whole0.usable := by decide +kernel

def arriving0 : CoreTask := { arrive0 with eng.cmds := [{ (withTask arrive0).capture .marr 3 true false 0 3 none none with running := true }] }

theorem test_milestone_hypotheses : arriving0.active = true ∧ arriving0.eng.cmds.length = 1 ∧
    (∀ c ∈ arriving0.eng.cmds, c.op = .marr ∧ c.held = false ∧ c.faulted = false ∧ c.pub = false) ∧ arriving0.eng.fences = [] ∧
    arriving0.pipe.pend = [] ∧ arriving0.pipe.waits.contains (.meet .marr) = false ∧ ((withTask arriving0).mile 3).err = 0 ∧
    ((withTask arriving0).mile 3).owner = none ∧ ((withTask arriving0).mile 3).arrived = 0 ∧ ((withTask arriving0).mile 3).list = [] ∧
    256 + 4 ≤ 2 ^ 22 ∧ (arriving0.dval 7).toNat / 2 ^ 32 = 1 ∧
    ((withTask arriving0).mile 3).pend + BitVec.ofNat 32 ((arriving0.dval 7).toNat % 2 ^ 32) = 0 ∧
    ({ arriving0 with r.dreg := [(7, 0x200000000)] }).dval 7 = 0x200000000 := by decide +kernel

/-! ## Fences, events of a core, releases -/

def req0 : LoadReq :=
  { lvl := 0, dst := some (.s 9), row := none, pair := none, lanes := 0, zero := false, size := 8, signed := false, addrs := [64] }
def loading0 : CoreTask :=
  { task0 with
    pipe.loads := [{ ord := 0, req := req0, vals := [7], bad := none, arrived := false }], pipe.ord := 1 }

theorem test_fence_hypotheses : (∃ c ∈ full0.eng.cmds, c.held = false ∧ c.ord < full0.pipe.ord) ∧
    (∃ w ∈ ({ task0 with pipe.ord := 1, eng.linkWins := [(0, 1)] }).eng.linkWins, w.1 < 1 ∧ state0.deviceTime < w.2) ∧
    task0.performed 0x1F task0.pipe.ord = true ∧ full0.performed 4 full0.pipe.ord = false ∧
    (4 : BitVec 5).getLsbD 0 = false ∧ (4 : BitVec 5).getLsbD 1 = false ∧ state0.pubOutstanding = false ∧
    task0.eng.linkWins = [] ∧ (task0.src s2 + 0).toNat < 2 ^ 24 ∧
    translates (withTask global0) (global0.src s4 + 0).toNat 0x1000000 .r = true := by
  have h : cmd0 .cpy 0 ∈ full0.eng.cmds := by decide +kernel
  exact ⟨⟨_, h, by decide +kernel⟩, ⟨(0, 1), by decide +kernel⟩, by decide +kernel⟩

def due0 (l : Latch) : CoreTask :=
  { task0 with pipe.pend := [{ left := 1, real := 1, ord := 0, flags := 0, record := 0x3F, eff := .sreg 0 (some (.s 9)) (some l) 8 }] }

theorem test_result_and_reply : ((withTask (due0 .ya)).taskOn 0 == some (due0 .ya)) = true ∧ (due0 .ya).pipe.pend.length = 1 ∧
    (due0 .ya).level = 0 ∧ (due0 .ya).active = true ∧ (due0 .ya).pipe.freeze = 0 ∧ loading0.pipe.loads.length = 1 ∧
    loading0.ctl.due = [] ∧ ((withTask global0).cached 0 0 0x1000000).isNone = true ∧
    (match (withTask global0).walk 0 0x1000000 .rw with | .ok l => l.pa == 0 && l.size == 30 | .error _ => false) = true := by
  decide +kernel

def waiting0 (w : Wait) : CoreTask :=
  { task0 with ctl.st := .waiting, pipe.waits := [w], pipe.cycle := 1, lm.scratch := [(64, 7)] }

theorem test_wait_ends : (waiting0 .bar).ctl.st = .waiting ∧ (waiting0 .bar).pipe.grp.next = 1 ∧ (waiting0 .bar).pipe.grp.xfer = none ∧
    waitCond .eq (BitVec.ofNat 32 (readNat (waiting0 .bar).lm.scratch 64 4)) 7 = true ∧ (waiting0 .bar).ctr 3 ≤ 0 ∧
    (waiting0 .bar).performed 4 0 = true ∧ (waiting0 .bar).admitted 0 = true ∧
    (∀ q ∈ (withTask (waiting0 .bar)).tasks, ∀ c ∈ q.eng.cmds, c.pub = false) := by decide +kernel

def target0 : State := { state0 with dbg.tgt := 0x8000000000000000, dbg.bp := [(2, 0x80000000)] }

theorem test_stop_hypotheses : task0.ctl.st = .running ∧ 2 ^ 20 ≤ ({ task0 with pipe.freeze := 2 ^ 20 }).pipe.freeze ∧
    task0.code.interval ≤ ({ task0 with pipe.interv := 100 }).pipe.interv ∧ task0.pipe.interv < task0.code.interval ∧
    (target0.isTarget task0 && task0.pipe.hold == 0 && !task0.pipe.bpSkip) = true ∧
    (List.range 4).find? (fun n => bitOf (mget 0 target0.dbg.bp n) 31 &&
      (mget 0 target0.dbg.bp n).toNat % 2 ^ 14 == task0.r.pc) = some 2 ∧
    state0.isTarget task0 = false ∧ target0.dbg.trCtl.getLsbD 0 = false := by decide +kernel

def unitTask : CoreTask :=
  { routined [] with eng.natives := [{ native0 with args := List.replicate 8 0x3F800000 }] }

theorem test_native_hypotheses : unitTask.eng.natives.length = 1 ∧ unitTask.routineOf 1 = some unit0 ∧ unitTask.handedOver = false ∧
    (∀ c ∈ unitTask.eng.natives, (State.unitWhole (withTask unitTask) c unit0).isSome = true) ∧ native0.ctr = some 2 := by
  decide +kernel

def pair0 (core replica : Nat) (meet : Option (Nat × Release)) : CoreTask :=
  { task0 with
    id.core := core, id.replica := replica, id.copies := 2, ctl.st := .waiting, pipe.waits := [.meet .rel], held.meet := meet,
    held.meetAge := 2 ^ 20, held.sectors := [(0x80000, { mask := 1, data := 7 })] }
def pairState (meet : Option (Nat × Release)) : State :=
  { state0 with t := pair0 0 0 (some (0, .rel)), rest := [pair0 4 1 meet] }

theorem test_release_hypotheses : (∀ q ∈ (pairState none).rest, State.replicas (pairState none).t q = true → q.held.meet = none) ∧
    State.replicas (pair0 0 0 none) (pair0 4 1 none) = true ∧ 0 < 1 ∧ 4 ≠ 0 ∧
    ((pairState none).agentPa 0 (32 * 0x80000) .w == some 0x1000000) = true ∧ 0x1000000 % 32 = 0 ∧
    (pair0 0 0 none).pipe.loads = [] ∧ ({ pair0 4 1 none with held.sync := some (0, true) }).held.sync = some (0, true) := by
  decide +kernel

def image0 : Image :=
  { ordered := false, gen := 1, lat := defaultLat, tiles := 4, accs := 0, share := 0xC0000, groupSize := 1, replicas := 1, interval := 65536,
    params := 0, text := [idleWord], data := [], routines := [], bodies := [], relocs := [], report := 0 }
def group0 (st : GroupSt) : GroupPl := { idx := 0, replica := 0, cluster := 0, st, first := some 0 }
def launch0 (st : LaunchSt) (g : GroupSt) : Launch :=
  { id := 1, ctx := 0, q := 0, seq := 9, image := 0x2000000, img := image0, cnt := 2, params := 0, mode := 0,
    sig := some (0x1000000, 3), stamps := none, digests := none, log := none, logHead := 0, logLost := false, copies := 1, st,
    groups := [group0 g], strobe := none, start := none, traps := 0, placedOnce := true, serial := false, commits := 0, digs := [], order := [],
    vals := [], cont := false, save := [], held := false, mapCluster := [], mapSlice := [], joinBy := 0, clock := 0 }
def launched (t : CoreTask) (l : Launch) (q : QueueSt) : State :=
  { state0 with t, exe.launches := [l], exe.queues := [(0, { Queue.idle with st := q })] }

def ordered0 (st : TaskSt) : CoreTask :=
  { task0 with id.ordered := true, ctl.st := st, held.sectors := [(0x80000, { mask := 1, data := 7 })] }

theorem test_ordered_hypotheses : (ordered0 .halted).id.idx < (ordered0 .halted).id.cnt ∧ (launch0 .running .running).nextCommit = 0 ∧
    ((launched (ordered0 .halted) (launch0 .running .running) .running).launchOf 1).isSome = true ∧
    (launch0 .running .running).log = none ∧ (ordered0 .halted).held.committed = false ∧
    (launch0 .running .running).nextCommit ≠ ({ ordered0 .halted with id.idx := 1 }).id.idx ∧
    ({ ordered0 .running with pipe.grp.back := some .heldSet }).pipe.grp.back = some .heldSet := by decide +kernel

/-! ## Queues, launches, contexts -/

/-- A state whose queue 0 is armed and whose head record, at 0x200000, holds these bytes and its seal. -/
def recordState (bytes : Memory) : State :=
  { state0 with
    exe.lwBase := 0x200000, exe.queues := [(0, { Queue.idle with st := .armed })],
    mem.hdm := table0 ++ bytes ++ [(0x2000FF, 0xA5)] }

/-- A record of these first bytes, the rest zero. -/
def rec0 (l : List Byte) : List Byte := l ++ List.replicate (256 - l.length) 0
def addr0 : List Byte := [0, 0, 0, 1, 0, 0, 0, 0]

theorem test_record_hypotheses : State.plain (rec0 [7]) 0 [] = true ∧ State.plain (rec0 [7, 0, 1]) 0 [] = false ∧
    State.plain (rec0 ([3, 1, 0, 0, 0, 0, 0, 0] ++ addr0)) 1 [(8, 16)] = true ∧
    State.plain (rec0 ([2, 0, 0, 0, 0, 0, 0, 0] ++ addr0 ++ [3])) 0 [(8, 16)] = true ∧
    byteField (rec0 ([2, 0, 0, 0, 0, 0, 0, 0] ++ addr0)) 8 8 = 0x1000000 := by decide +kernel

theorem test_parse_hypotheses : (recordState [(0x200000, 4), (0x20000B, 1), (0x200017, 19)]).canParse 0 = some 0 ∧
    readNat (recordState [(0x200000, 4), (0x20000B, 1), (0x200017, 19)]).mem.hdm 0x200000 1 = 4 ∧
    (((recordState []).freeSlot 0).mapped 0 0x1000000 72 .w = true ∧ ((recordState []).freeSlot 0).mapped 0 0x1000000 8 .r = true) ∧
    (recordState []).queueCtx 0 = some 0 ∧ (recordState []).serving = true ∧
    ((recordState []).agentPa 0 0x1000000 .w == some 0x1000000) = true := by decide +kernel

theorem test_poll_hypotheses : ({ Queue.idle with st := .parked, record := List.replicate 11 0 ++ [1] ++ List.replicate 244 0 }).st = .parked ∧
    ((recordState []).agentNat 0 (byteField (List.replicate 11 0 ++ [1] ++ List.replicate 244 0) 8 8) 8 == some 0) = true ∧
    (state0.queue 1).st = .idle ∧ (state0.queue 1).head = 0 := by decide +kernel

theorem test_launch_record_checks : (recordState [(0x200000, 1), (0x20000B, 2), (0x200010, 2)]).canParse 0 = some 0 ∧
    byteField ((recordState [(0x200000, 1), (0x20000B, 2), (0x200010, 2)]).headRecord 0) 0 1 = 1 ∧
    (State.checkLaunch 0 ((recordState [(0x200000, 1), (0x20000B, 2), (0x200010, 2)]).headRecord 0)
      ((recordState [(0x200000, 1), (0x20000B, 2), (0x200010, 2)]).freeSlot 0)).isNone = true := by decide +kernel

theorem test_frame_hypotheses : ({ state0 with exe.ctxs := [] }).serving = true ∧ ({ state0 with exe.ctxs := [] }).exe.launches = [] ∧
    (∀ x < 64, (({ state0 with exe.ctxs := [] }).ctx x).st ≠ .resident) ∧ (∀ q < 64, (state0.queue q).st ≠ .placing) ∧
    state0.md.gated = false := by decide +kernel

theorem test_launch_hypotheses : (∃ g ∈ (launch0 .placing .placing).groups, g.st = .placing) ∧
    (∃ g ∈ (launch0 .placing .loaded).groups, g.st = .loaded) ∧ ((launched task0 (launch0 .placing .placing) .placing).launchOf 1 == some (launch0 .placing .placing)) = true ∧
    ({ launch0 .placing .loaded with strobe := some 0 }).strobe = some 0 ∧ 0 ≤ state0.deviceTime ∧
    ({ task0 with ctl.st := .loaded }).ctl.st = .loaded ∧ (∀ g ∈ (launch0 .draining .retired).groups, g.st = .retired) ∧
    ((launched task0 (launch0 .draining .retired) .draining).queue 0).st = .draining ∧
    (launched task0 (launch0 .draining .retired) .draining).mapped 0 0x1000000 8 .w = true ∧ 0x1000000 % 8 = 0 :=
  ⟨⟨_, List.mem_singleton.mpr rfl, rfl⟩, ⟨_, List.mem_singleton.mpr rfl, rfl⟩, by decide +kernel⟩

theorem test_stall_hypotheses : ({ Queue.idle with st := .waiting, stallCfg := 1, frames := 1 }).stallCfg.toNat ≤ 1 ∧
    (1 : BitVec 32) ≠ 0 ∧ Queue.idle.stallCfg = 0 := by decide +kernel

theorem test_masters : state0.mayQueue ⟨1, 0⟩ 0 = true ∧ state0.mayQueue ⟨2, 3⟩ 0 = false ∧ state0.isOwner ⟨1, 0⟩ = true ∧
    state0.isOwner ⟨2, 0⟩ = false ∧ state0.answers ⟨1, 0⟩ = true ∧ state0.serving = true ∧ state0.md.gated = false ∧
    ({ state0 with md.gated := true }).serving = true ∧ ({ state0 with md.locked := true }).serving = false := by decide +kernel

def freshCtx : Ctx := { Ctx.free with part := 0x0101, slices := 1 }

theorem test_context_hypotheses : ({ state0 with exe.ctxs := [(5, freshCtx)] }).configureFault 5 = 0 ∧ freshCtx.st = .free ∧
    Ctx.free.slices = 0 ∧ (state0.ctx 0).st = .resident ∧ State.partOk (state0.ctx 0).part = true ∧ state0.exe.launches = [] ∧
    State.partOk Ctx.free.part = false ∧ ({ ctx0 with st := .faulted }).st = .faulted ∧ ({ ctx0 with st := .resetting }).destroyRec = false ∧
    State.resettable .resident = true ∧ State.resettable .free = false ∧ ({ ctx0 with invBusy := true }).invBusy = true ∧
    (state0.ctx 0).invBusy = false := by decide +kernel

def faulted0 : CoreTask := { task0 with ctl.st := .faulted, ctl.stopVal := some trap0, r.xcause := 0x500F }

theorem test_stop_report_hypotheses : faulted0.id.launch ≠ 0 ∧
    ((launched faulted0 (launch0 .running .running) .running).launchOf 1 == some (launch0 .running .running)) = true ∧
    (∀ g ∈ (launch0 .running .running).groups, g.st = .running) ∧ trap0.reason ≠ 4 ∧ state0.dbg.trCtl = 0 ∧
    (state0.ctx 0).policy.toNat % 4 = 0 ∧ ({ ctx0 with policy := 1 }).policy.toNat % 4 = 1 ∧ (state0.ctx 0).fault.getLsbD 63 = false ∧
    ({ ctx0 with fault := 0x8000000000000000 }).fault.getLsbD 63 = true ∧ ({ task0 with ctl.st := .stopping }).eng.cmds = [] := by
  decide +kernel

/-! ## The module and its links -/

def allOff : FMap Power := (List.range 192).map fun c => (c, .off)

theorem test_power_hypotheses : (∀ c < 192, mget .idle allOff c = .retention ∨ mget .idle allOff c = .off) ∧ (∀ q < 64, (state0.queue q).st ≠ .running) ∧
    ({ state0 with md.gated := true, md.waking := true }).md.waking = true ∧
    (launched task0 (launch0 .running .saved) .running).busy.contains 191 = false ∧
    (∀ l ∈ state0.exe.launches, ∀ g ∈ l.groups, g.cluster = 191 → g.st ≠ .saved) ∧ 191 ∉ state0.md.failed ∧
    (state0.userOf .core 191).isNone = true ∧ (state0.userOf .core 0 == some 0) = true := by decide +kernel

theorem test_owner_hypotheses : (0x5C000001 : BitVec 32).toNat / 2 ^ 24 = 0x5C ∧ (0x5C000001 : BitVec 32).toNat % 16 = 1 ∧
    State.reset.md.own.pending = 0 ∧ State.reset.md.own.owner = 0 ∧ state0.md.own.owner ≠ 0 ∧
    ({ state0 with md.own.pending := 2 }).md.own.pending = 2 ∧ (2 : BitVec 32).toNat % 16 ≤ 3 ∧ (1 : BitVec 32).getLsbD 0 = true ∧
    (2 : BitVec 32).getLsbD 0 = false ∧ (0x5A5A : BitVec 32).toNat = 0x5A5A ∧ state0.md.locked = false ∧ state0.md.booted = true := by
  decide +kernel

theorem test_mailbox_hypotheses : state0.md.own.mbBusy = false ∧ ({ state0 with md.own.mbBusy := true }).md.own.mbBusy = true ∧
    (0x0101 : BitVec 32).toNat / 256 % 256 = 1 ∧ (0x0101 : BitVec 32).toNat / 2 ^ 16 = 0 ∧
    State.blockShape 1 ((readBytes state0.md.own.mbData 0 4096).take
      (0x80 + byteField (readBytes state0.md.own.mbData 0x10 4) 0 4)) = false := by decide +kernel

def injecting : State :=
  { state0 with dbg.fi := [(0, { ctl := 0x8000000000000003, sel := 0x3000000000000040, cyc := 0 }),
      (1, { ctl := 0x8000000000000003, sel := 1, cyc := 0 })] }

theorem test_debug_hypotheses : injecting.injectDue 0 = true ∧ injecting.injectDue 1 = true ∧
    (mget Inject.idle injecting.dbg.fi 0).sel.toNat / 2 ^ 60 = 3 ∧
    (mget Inject.idle injecting.dbg.fi 1).sel.toNat / 2 ^ 60 = 0 ∧ 0x40 < injecting.t.usable ∧
    ({ state0 with md.credential := some 7 }).md.credential = some 7 ∧ ({ state0 with dbg.unlocked := true }).dbg.unlocked = true ∧
    state0.dbg.unlocked = false ∧ target0.isTarget task0 = true := by decide +kernel

theorem test_write_hypotheses : (0x20000 : Nat) + 8 ≤ 2 ^ 64 ∧ 2 ^ 64 < (2 ^ 64 - 1 : Nat) + 2 ∧ state0.md.ready = true ∧
    state0.queueCtx 0 = some 0 ∧ (state0.ctx 0).st ≠ .resetting ∧ (state0.queue 0).st = .idle ∧ (state0.queue 0).head < 16 := by
  decide +kernel

def linked (st : LinkSt) : State :=
  { state0 with
    net.links := [(0, { Link.reset with st, pwin := some 0, lanes := 0x0F, credits := 2, en := true })],
    net.timeSt := .locked, net.routes := [(0, 0x80000000)] }

theorem test_link_hypotheses : ((linked .training).link 0).pwin = some (linked .training).net.win ∧ popcount (0x1E : BitVec 5) = 4 ∧
    (0x1E : BitVec 5).getLsbD 4 = true ∧ ((linked .training).link 0).lanes.getLsbD 4 = false ∧ popcount (7 : BitVec 5) < 4 ∧
    ((linked .up).link 0).live = true ∧ ((linked .degraded).link 0).lanes.getLsbD 3 = true ∧ ((linked .down).link 0).en = true ∧
    ((linked .up).link 0).chunks = [] ∧ State.receives (linked .up) 0 = true ∧ State.receives (linked .up) 63 = false ∧
    (linked .up).mapped 0 0x1000000 4 .w = true ∧ (linked .up).mapped 0 0x1000000 4 .rw = true ∧
    ((linked .up).agentPa 0 0x1000000 .w == some 0x1000000) = true ∧ ((linked .up).agentRead 0 0x1000000 4).isSome = true ∧
    ((linked .up).link 0).last + 1 = 1 := by decide +kernel

def signalling : CoreTask :=
  { far0 with eng.cmds := [{ (withTask far0).capture .sig 3 false false 0 7 none none with running := true }] }

theorem test_link_traffic_hypotheses : (∀ c ∈ signalling.eng.cmds, c.total = 1 ∧ c.units = 0 ∧ c.pub = false ∧
      (c.d.getD 1 0).toNat / 2 ^ 60 = 2 ∧ (c.d.getD 1 0).toNat / 2 ^ 52 % 256 = 0) ∧
    (linked .up).meetsBound ((linked .up).link 0) 4 = true ∧ (mget 0 (linked .up).net.routes 0).getLsbD 31 = true ∧
    (mget 0 (linked .up).net.routes 0).toNat / 2 ^ 16 % 16 = 0 ∧ 0 < ((linked .up).link 0).credits ∧
    ((linked .up).link 0).unacked = [] ∧ ((linked .up).link 0).gated = false := by decide +kernel

/-! ## Encodings and steps -/

theorem test_encodings_exist : (samples.all fun i => WellFormed i && encode i != []) = true := by decide +kernel

/-- A core whose next group is a nop, with nothing to hold it back. -/
def stepping : State := { state0 with agenda := [.core 0], t := { task0 with r.pc := 5 } }

theorem test_step_hypotheses : stepping.t.held.sync = none ∧ stepping.t.pipe.interv < stepping.t.code.interval ∧
    (stepping.isTarget stepping.t = true → stepping.t.pipe.bpSkip = true) ∧
    (∀ n < 4, bitOf (mget Inject.idle stepping.dbg.fi n).ctl 63 = false) ∧
    stepping.t.groupAt 16385 stepping.t.r.pc = some [idleWord] ∧
    decodesTo [([idleWord], .nop .sa none)] = true := by decide +kernel

theorem test_step_event : ({ stepping with agenda := [.event .roundaboutFrame] }).agenda = .event .roundaboutFrame :: [] := rfl

/-- A fetched addi writes its register's result in flight and moves the pc on. -/
theorem test_fetch_word : (match step (state0.withFetchWord 64 0x00302010FFFFFFFF) with
    | .next u => u.t.r.pc == 1 && u.t.pipe.pend.map (·.eff) == [.sreg 0 (some (.s 2)) (some .ya) 4]
    | _ => false) = true := by decide +kernel

theorem test_table_word : decodeTableWord 128 0xE0000000000001001180400000000010 =
    some (.li .sb none (.reg (.s 4)) 0x10000000010) := by decide +kernel

theorem test_memory_canonical_holds : table0.wf = true ∧ (step stepping matches .next _) = true := by decide +kernel

/-- An image of one halt at 0x2000000: header and text (R293), its load report at 0x3000000. -/
def imageBytes : Memory :=
  [(0x2000000, 0x53), (0x2000001, 0x4D), (0x2000002, 0x52), (0x2000003, 0x4B), (0x2000004, 1), (0x2000008, 1), (0x2000010, 0x31),
   (0x2000011, 0x42), (0x2000012, 0x36), (0x2000013, 0x24), (0x2000014, 1), (0x2000016, 12), (0x2000017, 1), (0x2000018, 1),
   (0x200001E, 1), (0x2000024, 1), (0x200003B, 3), (0x2000040, 0x80), (0x2000086, 0xD0), (0x2000087, 0xD0)]

def imageState : State :=
  { recordState [(0x200000, 1), (0x20000B, 2), (0x200010, 2)] with mem.phys := imageBytes }

theorem test_launch_image : (match imageState.imageVerdict 0 0x2000000 0 with
    | some (.ok im, v) => im.text == [0xD0D0000000000000] && im.params == 0 && !im.ordered &&
      decide (State.saveNeed (v.newLaunch 0 0 (imageState.headRecord 0) im) ≤ (v.ctx 0).cSaveLen.toNat)
    | _ => false) = true := by decide +kernel

/-! ## Further hypotheses -/

/-- A task loaded for its round, with its turn of the cycle taken, and its launch at the strobe. -/
def strobed : State :=
  { launched { task0 with ctl.st := .released } { launch0 .placing .loaded with strobe := some 0 } .placing with now := 0 }

theorem test_strobe_hypotheses : strobed.t.ctl.st = .released ∧ 0 ≤ strobed.nextTime ∧ (∀ p ∈ strobed.tasks, strobed.now ≤ p.pipe.seen) ∧
    strobed.t.pipe.kept = none ∧ strobed.t.pipe.loads = [] ∧ strobed.dbg.trCtl = 0 ∧ strobed.nextTime < 1024 ∧
    state0.deviceTime % 1024 = 0 ∧ state0.exe.deferred = [] ∧ ({ state0 with timeOff := 1 }).deviceTime % 1024 ≠ 0 ∧
    ((launched task0 (launch0 .draining .retired) .draining).queue 0).record = [] := by decide +kernel

theorem test_queue_hypotheses : (mget 0 (recordState []).exe.torn (16 * 0 + 0)) = 0 ∧ state0.liveCtx 0 = some 0 ∧
    ({ state0 with md.gated := true }).mayQueue ⟨1, 0⟩ 0 = true ∧ ({ Queue.idle with st := .error }).record = [] := by decide +kernel

theorem test_gating_hypotheses : state0.md.gated = false ∧ state0.md.waking = false ∧
    (mget 0 (match exec (.clusterFailure 0) { state0 with exe.launches := [] } with | .next u => u.md.mapCluster | _ => []) 0 ≠
      mget 0 state0.md.mapCluster 0) ∧ 0 ∉ state0.md.failed := by decide +kernel

theorem test_flash_hypotheses : state0.md.flash.failing = false ∧ ({ state0 with md.flash.failing := true }).md.flash.failing = true ∧
    (0x20000 : Nat) + 1 < 0x12000000000 := by decide +kernel

theorem test_call_hypotheses : (∀ c ∈ unitTask.eng.natives, c.pend = [] ∧ c.late = 0 ∧ c.unit ≠ .pmmBlk) ∧ unitTask.pipe.loads = [] ∧
    ({ native0 with unit := .pmmBlk }).unit = .pmmBlk ∧ (∀ c ∈ arriving0.eng.cmds, c.units = 0) ∧ arriving0.pipe.freeze = 0 ∧
    ({ task0 with pipe.recount := true }).pipe.recount = true ∧ task0.pipe.recount = false := by decide +kernel

theorem test_wait_windows : (∀ w ∈ (waiting0 (.wfence 1)).eng.linkWins, w.1 < 1 → w.2 ≤ state0.deviceTime) ∧
    (waiting0 (.rel 0)).performed 0x1F 0 = true ∧ (State.mates task0 (mate0 false) && (mate0 false).ctl.st != .halted) = true ∧
    State.mates task0 { mate0 true with id.launch := 9 } = false := by decide +kernel

/-- The AES-256 example of FIPS 197, and that a key reads what it wrote. -/
theorem test_cipher : Cipher.encryptBlock (Cipher.roundKeys (List.range 32)) ((List.range 16).map (17 * ·)) =
      [0x8E, 0xA2, 0xB7, 0xCA, 0x51, 0x67, 0x45, 0xBF, 0xEA, 0xFC, 0x49, 0x90, 0x4B, 0x49, 0x60, 0x89] ∧
    Cipher.read 1 1 32 (List.replicate 32 5) = List.replicate 32 5 ∧ Cipher.read 1 2 32 (List.replicate 32 5) ≠ List.replicate 32 5 := by
  decide +kernel

/-- A record dropped while the trace port is behind is remembered, and the sync record that follows says so (R354). -/
theorem test_trace_lost : (({ state0 with dbg.trBehind := true }).traceWords [0]).dbg.trLost = true ∧
    (({ state0 with dbg.trLost := true }).traceWords [0]).dbg.trLost = false ∧ (state0.syncWords true).head? = some 0xA0000000 ∧
    (∀ l < 16, (state0.link l).chunks = []) := by decide +kernel

/-! ## Further cases of the statements' hypotheses -/

/-- The waited word of word0, in an uncorrectable sector. -/
def badWord0 : CoreTask := { word0 with lm.bad := [2] }

theorem test_wait_bad_word : word0.wordBad 64 = none ∧ badWord0.wordBad 64 = some 64 ∧ badWord0.pipe.waits = [] ∧ badWord0.ctl.due = [] ∧
    (word0.src s2).toNat = 64 ∧ badWord0.rangeFault 64 4 = none := by decide +kernel

theorem test_call_limit : ({ task0 with r.calls := List.replicate 16 ⟨0, 0, 1⟩ }).r.calls.length = 16 ∧ task0.isStart 0 = true ∧
    task0.isStart 1000 = false := by decide +kernel

theorem test_plane_traps : ({ plane0 with code.nAccs := 1 }).accOk 3 = false ∧
    (∃ p ∈ (readsA (plane0.fm 0) 0 3 31).map (fmAddr (plane0.fm 0)), p / 32 ∈
      ({ plane0 with lm.bad := [fmAddr (plane0.fm 0) 0x7F0 / 32, fmAddr (plane0.fm 0) 0x7E0 / 32] }).lm.bad) ∧
    513 % 512 ≠ 0 ∧ plane0.lm.plane = [] ∧ plane0.lm.behind = [] ∧ plane0.lm.bad = [] ∧ plane0.inPmm = false ∧
    (∃ p ∈ readsA (plane0.fm 0) 0 3 31, ({ plane0 with lm.tags := [(0, 9), (1, 9)] }).planeTag (p / 2048) ≠ declaredTag (plane0.fm 0)) := by
  decide +kernel

theorem test_accumulator_traps : (task0.code.share - 0x8000) % 256 = 0 ∧
    (∀ p, 256 ≤ p → p < 256 + 256 * 1 → p / 32 ∉ task0.lm.bad) ∧ 8 ∈ ({ task0 with lm.bad := [8] }).lm.bad ∧ 256 / 32 = 8 ∧
    257 % 256 ≠ 0 := ⟨by decide +kernel, fun p _ _ => by simp [show task0.lm.bad = [] from rfl], by decide +kernel⟩

theorem test_copy_between : (withTask running0).between = true ∧ running0.held.sync = none ∧ running0.lm.undo = [] ∧
    running0.lm.behind = [] ∧ (∀ c ∈ running0.eng.cmds, c.index = none ∧ c.running = true) ∧ whole0.held.sync = none ∧
    (withTask whole0).between = true ∧ (∀ c ∈ whole0.eng.cmds, c.units = c.total) := by decide +kernel

/-- A participant of milestone 3 on core 4 whose arrival is in, and the task on core 0 whose marr is to arrive. -/
def marred0 : State :=
  { withTask { arriving0 with eng.cmds := arriving0.eng.cmds.map fun c => { c with d := [0, 0, 0, 0, 0, 256, 9, 0x200000000] } } with
    rest := [{ task0 with id.core := 4, id.idx := 1 }],
    mem.miles := [(3, { (withTask arriving0).mile 3 with
      owner := some 1, expect := 2, arrived := 1, list := [MArrival.mk 1 1 128 5 2] })] }

theorem test_milestone_pair : marred0.t.active = true ∧ marred0.t.held.sync = none ∧ (marred0.mile 3).err = 0 ∧
    (marred0.mile 3).owner = some marred0.t.id.launch ∧ (marred0.mile 3).expect = 2 ∧ (marred0.mile 3).arrived + 1 = 2 ∧
    (marred0.mile 3).pend + 0 = 0 ∧ (∀ q ∈ marred0.tasks, q.heldOff = false ∧ q.id.launch = 1) ∧
    (∀ q ∈ marred0.rest, q.id.idx = 1) ∧ marred0.t.id.idx = 0 ∧
    (∀ c ∈ marred0.t.eng.cmds, (c.d.getD 7 0).toNat / 2 ^ 32 = 2 ∧ c.tag.toNat % 256 = 3) ∧ 128 + 4 ≤ 2 ^ 22 := by decide +kernel

theorem test_wait_ends_between : (withTask (waiting0 (.word 64 .eq 7 true 0 3))).between = true ∧
    (waiting0 (.word 64 .eq 7 true 0 3)).pipe.grp.soft = none ∧ (waiting0 .bar).pipe.grp.halting = false ∧
    (waiting0 .bar).id.ordered = false ∧ (waiting0 .bar).r.b.loops = [] ∧ (waiting0 .bar).pipe.freeze = 0 ∧
    (waiting0 .bar).wordBad 64 = none ∧ waitCond .eq (BitVec.ofNat 32 (readNat (waiting0 .bar).lm.scratch 64 4)) 8 = false ∧
    (waiting0 (.ctr 3 0)).pipe.waits = [.ctr 3 0] ∧ (waiting0 (.fence 4 1 0)).pipe.waits = [.fence 4 1 0] ∧
    (waiting0 (.rel 0)).performed 0x1F 0 = true ∧ (waiting0 (.wfence 0)).pipe.waits = [.wfence 0] ∧
    (waiting0 (.wfence 0)).eng.linkWins = [] := by decide +kernel

/-- One word of a wait in WaitsEnd ends as it says there, in one step. -/
theorem test_wait_satisfied : (match exec (.waitSatisfied 0) (withTask (waiting0 (.word 64 .eq 7 true 0 3))) with
    | .next u => u.t.ctl.st = .running && u.t.pipe.waits.isEmpty && u.t.r.pc == 1 && !u.t.land.pred 3
    | _ => false) = true := by decide +kernel

theorem test_native_calm : unitTask.pipe.pend = [] ∧ unitTask.pipe.loads = [] ∧ unitTask.pipe.waits = [] ∧ native0.pend = [] ∧ native0.late = 0 ∧
    unitTask.pipe.freeze = 0 ∧ unitTask.active = true ∧ native0.unit ≠ .pmmBlk ∧ (withTask unitTask).dbg.trCtl.getLsbD 1 = false ∧
    ({ unitTask with ctl.st := .running }).ctl.st = .running := by decide +kernel

theorem test_release_pair : (pairState (some (0, .rel))).rest.length = 1 ∧
    (∀ q ∈ (pairState (some (0, .rel))).rest, State.replicas (pairState none).t q = true ∧ q.held.meet = some (0, .rel) ∧
      q.held.sigLo = (pairState none).t.held.sigLo ∧ q.held.sigHi = (pairState none).t.held.sigHi ∧ q.id.core ≠ 0) := by decide +kernel

theorem test_ordered_calm : (∀ q ∈ (launched (ordered0 .halted) (launch0 .running .running) .running).tasks,
    (∀ c ∈ q.eng.cmds, c.pub = false) ∧ (q.id.launch = 1 → q = ordered0 .halted)) := by decide +kernel

/-- A module whose executive is to start a function-level reset of every function at its next frame. -/
def resetting0 : State := { state0 with exe.deferred := [.flr 0] }

theorem test_reset_hypotheses : resetting0.serving = true ∧ resetting0.md.gated = false ∧ resetting0.deviceTime % 1024 = 0 ∧
    (∀ q < 64, (resetting0.queue q).st ≠ .placing) ∧ State.resettable (resetting0.ctx 0).st = true ∧
    State.resettable (resetting0.ctx 9).st = false := by decide +kernel

theorem test_failure_hypotheses : state0.inService 0 = true ∧ state0.saving = false ∧ state0.exe.launches = [] ∧
    (state0.userOf .core 0 == some 0) = true := by decide +kernel

theorem test_spare_clusters : state0.spareLeft 0 = true ∧
    ({ state0 with md.retired := (List.range 832).map fun k => (HealthUnit.core, k) }).spareLeft 0 = false := by decide +kernel

theorem test_debug_calm : injecting.t.pipe.freeze = 0 ∧ injecting.t.resultLate = false ∧ injecting.t.landDue.awaitsLoad = false ∧
    target0.dbg.asked = [] := by decide +kernel

theorem test_invalidation_write : ({ ctx0 with invBusy := true }).st ≠ .free ∧ ({ ctx0 with invBusy := true }).st ≠ .destroyed ∧
    (∀ l < 16, (state0.link l).chunks = []) := by decide +kernel

/-- A discarding link, a training link that used its spare, and one that has a chunk on the wire. -/
def link0 (st : LinkSt) (lanes : BitVec 5) (discard : Bool) : Link :=
  { Link.reset with st, lanes, discard, pwin := some 0, en := true, credits := 2 }

theorem test_link_cases : (link0 .up 0x0F false).hears = true ∧ (link0 .up 0x0F true).discard = true ∧ (link0 .training 0x1E false).lanes.getLsbD 4 = true ∧
    (link0 .training 0x1E false).pwin = some (link0 .training 0x1E false).win ∧ (0x0F : BitVec 5).getLsbD 4 = false ∧
    (∀ j < 16, j ≠ 0 → ((linked .up).link j).announce = none) ∧ (linked .up).net.timeSt = .locked ∧
    ({ linked .up with net.timeSt := .holdover }).net.timeSt = .holdover ∧ (∃ j < 16, ((linked .up).link j).live = true) ∧
    (∀ j < 16, ((linked .down).link j).live = false) ∧ (linked .up).serving = true ∧ (linked .up).md.gated = false := by
  refine ⟨by decide +kernel, by decide +kernel, by decide +kernel, by decide +kernel, by decide +kernel, by decide +kernel, by decide +kernel,
    by decide +kernel, ⟨0, by decide +kernel, by decide +kernel⟩, by decide +kernel, by decide +kernel, by decide +kernel⟩

/-- The signal of `signalling` sent, its chunk unacknowledged. -/
def awaiting : State :=
  { linked .up with
    t := { signalling with eng.cmds := signalling.eng.cmds.map fun c => { c with units := 1 } },
    net.links := [(0, { link0 .up 0x0F false with
      chunks := [Chunk.mk 0 1 0 1 0 0 0 4 false 3 { va := 0x1000000, ctx := 0, op := 0, tag := 0, seq := 1, data := [0, 0, 0, 0] } 0 []] })] }

theorem test_chunk_accept_hypotheses : (awaiting.link 0).hears = true ∧ (awaiting.link 0).absent = [] ∧ awaiting.t.held.sync = none ∧
    (∀ c ∈ awaiting.t.eng.cmds, c.ahead = [] ∧ c.acked = 0 ∧ c.cw = false ∧ c.units = 1 ∧ c.total = 1 ∧ c.ord = 0 ∧ c.faulted = false) ∧
    awaiting.t.id.launch = 1 ∧ awaiting.t.id.idx = 0 ∧
    (∀ ch ∈ (awaiting.link 0).chunks, ch.unit = 0 ∧ ch.link = 0 ∧ ch.lost = false ∧ ch.core = 0 ∧ ch.bytes = 4) := by decide +kernel

theorem test_admission_calm : ((linked .up).link 0).absent = [] ∧ ((linked .up).link 0).swapEnd ≤ (linked .up).deviceTime ∧
    (∀ c ∈ signalling.eng.cmds, c.ahead = []) ∧ (mget 0 ({ linked .up with net.routes := [] }).net.routes 0).getLsbD 31 = false := by decide +kernel

/-! ### Stops, halts and placements -/

/-- The target of the debug unit, its stop asked for, no breakpoint at its group. -/
def asked0 : CoreTask := { task0 with ctl.dbgReq := true, ctl.stopReq := true, pipe.ppoint := true }

theorem test_debug_stop_hypotheses :
    let s := { target0 with t := asked0 }
    s.isTarget asked0 = true ∧ asked0.pipe.hold = 0 ∧ asked0.ctl.due = [] ∧ asked0.pipe.freeze < 2 ^ 20 ∧
    asked0.pipe.interv < asked0.code.interval ∧ asked0.pipe.bpSkip = false ∧ asked0.pipe.waits = [] ∧
    (∀ n < 4, bitOf (mget 0 ({ s with dbg.bp := [(2, 0x80000005)] }).dbg.bp n) 31 = true →
      (mget 0 ({ s with dbg.bp := [(2, 0x80000005)] }).dbg.bp n).toNat % 2 ^ 14 ≠ asked0.r.pc) ∧
    { asked0 with pipe.bpSkip := true }.pipe.bpSkip = true := by decide +kernel

/-- The stop that is asked for falls between two groups of the target, in one step (R352). -/
theorem test_debug_stop : (match exec (.debugStop 0) { target0 with dbg.bp := [], t := asked0 } with
    | .next u => u.t.ctl.st = .faulted && u.t.r.xcause == 0x8010 && u.t.r.xval == 0x200000000 && u.t.r.pc == 0
    | _ => false) = true := by decide +kernel

/-- A task whose group halts, and a peer at their barrier. -/
def halting0 : State := { state0 with t := { task0 with pipe.grp.halting := true }, rest := [mate0 true] }

theorem test_halting_hypotheses : halting0.t.pipe.grp.soft = none ∧ halting0.t.pipe.grp.halting = true ∧
    (∃ p ∈ halting0.rest, State.mates halting0.t p = true ∧ p.pipe.barArr = true) ∧
    (∀ p ∈ halting0.rest, State.mates halting0.t p = true → p.pipe.barArr = true ∨ p.ctl.st = .halted) ∧
    ({ task0 with id.copies := 2, eng.natives := [native0] }).eng.natives ≠ [] ∧
    1 < ({ task0 with id.copies := 2, eng.natives := [native0] }).id.copies :=
  ⟨by decide +kernel, by decide +kernel, ⟨_, List.mem_singleton.mpr rfl, by decide +kernel⟩, by decide +kernel, by decide +kernel,
    by decide +kernel⟩

/-- The group of a halt ends its task (R149). -/
theorem test_halt_ends : halting0.endGroup.t.ctl.st = .halted ∧ halting0.endGroup.t.r.pc = 1 := by decide +kernel

/-- A launch of two tasks of two replicas, none of its groups placed. -/
def unplaced0 : Launch :=
  { launch0 .placing .unplaced with
    copies := 2, placedOnce := false, img := { image0 with groupSize := 2 },
    groups := (List.range 2).map fun k => { idx := 0, replica := k, cluster := 0, st := .unplaced, first := none } }

def placing0 : State :=
  { state0 with
    t := CoreTask.empty 0, exe.launches := [unplaced0], exe.queues := [(0, { Queue.idle with st := .placing })],
    exe.ctxs := [(0, { ctx0 with st := .configured, cPart := 0x0202, clusters := [] })] }

theorem test_placement_hypotheses : placing0.serving = true ∧ placing0.deviceTime % 1024 = 0 ∧ placing0.md.gated = false ∧
    placing0.exe.deferred = [] ∧ (∀ x < 64, (placing0.ctx x).st ≠ .resident) ∧ (∀ q < 64, (placing0.queue q).record = []) ∧
    placing0.md.failed = [] ∧ placing0.md.lost = [] ∧ placing0.md.retired = [] ∧ (placing0.ctx 0).st = .configured ∧
    (placing0.ctx 0).evict = false ∧ unplaced0.held = false ∧ unplaced0.serial = false ∧ unplaced0.save = [] ∧
    unplaced0.stamps = none ∧ unplaced0.log = none ∧ unplaced0.img.ordered = false ∧ unplaced0.img.relocs = [] ∧
    unplaced0.img.groupSize = 2 ∧ unplaced0.copies = 2 ∧ unplaced0.cnt = 2 ∧
    unplaced0.groups = (List.range 2).map (fun k => { idx := 0, replica := k, cluster := 0, st := .unplaced, first := none }) ∧
    (placing0.ctx 0).cPart.toNat = 0x0202 ∧ 4 * State.slotTotal unplaced0 ≤ (placing0.ctx 0).cSaveLen.toNat := by decide +kernel

theorem test_placement_clusters (x : Nat) : (placing0.ctx x).clusters = [] := by
  rcases x with _ | x <;> rfl

/-! ### Numbers -/

/-- Halfway to even, up past it, cut off, and up where the LFSR's top bits carry. -/
theorem test_rounded : IsRounded .rne 0 0x1000001 0 1 0x800000 True ∧ IsRounded .rne 0 0x1000003 0 1 0x800002 True ∧
    IsRounded .rtz 0 0x1000003 0 1 0x800001 True ∧ IsRounded .sr 0x80000000 5 0 1 3 True ∧ IsRounded .sr 0 5 0 1 2 True ∧
    IsRounded .rne 0 3 1 0 6 False := by
  refine ⟨?_, ?_, ?_, ?_, ?_, ?_⟩ <;> simp [IsRounded]

/-- f16 (R38). -/
def half : FloatFmt := ⟨10, 5, 15, false⟩

/-- Each case of a rounding: too great, flushed, subnormal, and none of these. -/
theorem test_rounding_cases : ElemTy.float? .f16 = some half ∧
    (half.maxQ < max (17 + (Nat.log2 1 : Nat) : Int) half.emin - half.mb) ∧
    half.round false .rne 0 (.fin false 1 17) = (0x7C00, fOverflow ||| fInexact) ∧
    half.round true .rne 0 (.fin true 1 (-20)) = (0x8000, fUnderflow ||| fInexact) ∧
    half.round false .rne 0 (.fin false 1 (-24)) = (1, 0) ∧
    half.round false .rne 0 (.fin false 0x801 (-11)) = (0x3C00, fInexact) := by decide +kernel

/-- Each case of a conversion (R49, R166). -/
theorem test_convert_cases : ElemTy.float? .i32 = none ∧ convert .i32 .i8 false .rne 0 200 = (127, fSaturated) ∧
    convert .i32 .i8 false .rne 0 0xFFFFFF00 = (0x80, fSaturated) ∧ convert .i32 .i8 false .rne 0 5 = (5, 0) ∧
    convert .i32 .f16 false .rne 0 1 = (0x3C00, 0) ∧ convert .f32 .i32 false .rne 0 0x7FC00000 = (0, fInvalid) ∧
    convert .f32 .i32 false .rne 0 0xFF800000 = (0x80000000, fInvalid) ∧ convert .f32 .i32 false .rne 0 0x40200000 = (2, fInexact) ∧
    convert .f32 .i32 false .rne 0 0x4F000000 = (0x7FFFFFFF, fInvalid) ∧ convert .f16 .f32 false .rne 0 1 = (0x33800000, 0) ∧
    convert .f32 .e4m3 false .rne 0 0x7F800000 = (0x7E, fOverflow ||| fInexact) ∧
    convert .f32 .f16 false .rne 0 0x7F800001 = (0x7E00, fInvalid) ∧ convert .f32 .f16 false .rne 0 0xFF800000 = (0xFC00, 0) := by
  decide +kernel

/-! ### Records, links and syllables -/

/-- A record that ends the capture its queue runs. -/
def capturing0 : State :=
  { recordState [(0x200000, 5)] with
    exe.queues := [(0, { Queue.idle with
      st := .armed, capture := some ([0x1000000, 0, 1, 2, 3, 4, 5, 6, 7], List.replicate 9 0) })] }

theorem test_capture_hypotheses : capturing0.canParse 0 = some 0 ∧ State.plain (capturing0.headRecord 0) 0 [] = true ∧
    readByte capturing0.mem.hdm (capturing0.slotPos 0 (capturing0.queue 0).head) = 5 ∧
    (capturing0.freeSlot 0).mapped 0 0x1000000 72 .w = true ∧ mget 0 capturing0.exe.torn 0 = 0 := by decide +kernel

/-- The record that a capture leaves: nine doublewords, each a counter less what it was (R287). -/
theorem test_capture_record : (match exec (.captureStop 0) capturing0 with
    | .next u => (u.queue 0).capture == none && (u.queue 0).st != .error
    | _ => false) = true := by decide +kernel

/-- A module whose links train while it starts. -/
def starting0 : State :=
  { linked .training with md.ready := false, net.links := (List.range 16).map fun k => (k, if k = 0 then link0 .training 0x1F true else link0 .down 0 false) }

theorem test_bring_up_hypotheses : starting0.md.booted = true ∧ starting0.md.cxlUp = true ∧ starting0.md.bootfail = false ∧
    starting0.md.locked = false ∧ (starting0.link 0).st = .training ∧ (starting0.link 0).chunks = [] ∧
    (∀ j < 16, j ≠ 0 → (starting0.link j).st ≠ .training) ∧
    (∃ j < 16, j ≠ 1 ∧ (starting0.link j).st = .training) :=
  ⟨by decide +kernel, by decide +kernel, by decide +kernel, by decide +kernel, by decide +kernel, by decide +kernel, by decide +kernel,
    ⟨0, by decide +kernel, by decide +kernel, by decide +kernel⟩⟩

/-- The last link out of training ends the bring-up (R25). -/
theorem test_bring_up_ends : (match exec (.linkTrainingTimeout 0 3) starting0 with
    | .next u => u.md.ready && (u.link 0).st == .down
    | _ => false) = true := by decide +kernel

/-- A link that trains while the module is gated. -/
def gatedLink0 : State := { linked .training with md.gated := true, net.links := [(0, { Link.reset with st := .training, pwin := some Link.reset.win })] }

theorem test_gated_link_hypotheses : (gatedLink0.link 0).st = .training ∧ (gatedLink0.link 0).pwin = some (gatedLink0.link 0).win ∧
    gatedLink0.md.gated = true ∧ popcount (0x1F : BitVec 5) = 5 ∧ (gatedLink0.link 0).lanes.getLsbD 4 = false := by decide +kernel

/-- A delay that is measured: half of what the answer took longer than the peer kept it (R339). -/
theorem test_peer_delay : (match exec (.timeMessage 0 0 (.pdelayResp 100))
      { linked .up with now := 2000, net.links := [(0, { link0 .up 0x0F false with asked := some 500 })] } with
    | .next u => (u.link 0).delay == 200 && (u.link 0).asked == none
    | _ => false) = true := by decide +kernel

theorem test_syllable : isSyllable (.halt none) = true ∧ isSyllable (.debugStop 0) = false := by decide +kernel

end Sys2Proof.Tests
end

section
/-! SUPPORT. Exact numbers: sums and products as scaled integers, the one rounding of a finite value, and the fields of a pattern
(R42 to R47, R51, R160). -/

namespace Sys2Proof.Machine

open Sys2Proof.Safety

/-! ### Exact sums and products (R44, R160) -/

/-- A finite value at a finer scale: one factor 2 for each place between the scales. -/
theorem scaled_rescale {e k x : Int} (n : Bool) (m : Nat) (hek : e ≤ k) (hkx : k ≤ x) :
    scaled e (.fin n m x) = scaled k (.fin n m x) * 2 ^ (k - e).toNat := by
  have hx : (x - e).toNat = (x - k).toNat + (k - e).toNat := by omega
  simp only [scaled, hx, Nat.pow_add, Int.natCast_mul, Int.natCast_pow, Int.cast_ofNat_Int, Int.mul_assoc]

/-- An integer v in sign and magnitude is v. -/
theorem scaled_signMagnitude (e k v : Int) :
    scaled e (.fin (v < 0) v.natAbs k) = v * 2 ^ (k - e).toNat := by
  have hv : (if v < 0 then -1 else 1) * (v.natAbs : Int) = v := by split <;> omega
  simp only [scaled, decide_eq_true_eq, Int.natCast_mul, Int.natCast_pow, Int.cast_ofNat_Int]
  rw [← Int.mul_assoc, hv]

/-- A sum of addends that are not both zero, at the lower of their exponents. -/
theorem addFin_of_ne_zero {na nb : Bool} {ma mb : Nat} (ea eb : Int) (h : ¬(ma = 0 ∧ mb = 0)) :
    let v := scaled (min ea eb) (.fin na ma ea) + scaled (min ea eb) (.fin nb mb eb)
    addFin na ma ea nb mb eb = .fin (v < 0) v.natAbs (min ea eb) :=
  if_neg h

theorem scaled_addFin {e ea eb : Int} (na nb : Bool) (ma mb : Nat) (ha : e ≤ ea) (hb : e ≤ eb) :
    scaled e (addFin na ma ea nb mb eb) = scaled e (.fin na ma ea) + scaled e (.fin nb mb eb) := by
  by_cases h : ma = 0 ∧ mb = 0
  · obtain ⟨rfl, rfl⟩ := h
    simp [addFin, scaled]
  · have he : e ≤ min ea eb := Int.le_min.2 ⟨ha, hb⟩
    rw [addFin_of_ne_zero ea eb h, scaled_signMagnitude, scaled_rescale na ma he (Int.min_le_left ..),
      scaled_rescale nb mb he (Int.min_le_right ..), Int.add_mul]

/-- Whether a finite value is zero does not depend on the scale. -/
theorem scaled_eq_zero {e x : Int} {n : Bool} {m : Nat} : scaled e (.fin n m x) = 0 ↔ m = 0 := by
  have hp := Nat.ne_of_gt (Nat.two_pow_pos (x - e).toNat)
  simp only [scaled, Int.mul_eq_zero, Int.natCast_eq_zero, Nat.mul_eq_zero, hp, or_false]
  cases n <;> simp

/-- R160: an exact zero sum is +0 unless both addends are −0. -/
theorem addFin_of_sum_zero {e ea eb : Int} {na nb : Bool} {ma mb : Nat} (ha : e ≤ ea) (hb : e ≤ eb)
    (h0 : scaled e (.fin na ma ea) + scaled e (.fin nb mb eb) = 0) :
    ∃ k, addFin na ma ea nb mb eb = .fin (na && nb && ma == 0) 0 k := by
  by_cases h : ma = 0 ∧ mb = 0
  · exact ⟨0, by simp [addFin, h]⟩
  · have hma : ma ≠ 0 := by
      rintro rfl
      rw [scaled_eq_zero.2 rfl, Int.zero_add] at h0
      exact h ⟨rfl, scaled_eq_zero.1 h0⟩
    have he : e ≤ min ea eb := Int.le_min.2 ⟨ha, hb⟩
    rw [scaled_rescale na ma he (Int.min_le_left ..), scaled_rescale nb mb he (Int.min_le_right ..), ← Int.add_mul] at h0
    have hv := (Int.mul_eq_zero.1 h0).resolve_right (Int.ne_of_gt (Int.pow_pos (by decide)))
    exact ⟨min ea eb, by simp [addFin_of_ne_zero ea eb h, hv, hma]⟩

theorem scaled_mul {e e' ea eb : Int} (na nb : Bool) (ma mb : Nat) (ha : e ≤ ea) (hb : e' ≤ eb) :
    scaled (e + e') (.fin (na != nb) (ma * mb) (ea + eb)) = scaled e (.fin na ma ea) * scaled e' (.fin nb mb eb) := by
  have hx : (ea + eb - (e + e')).toNat = (ea - e).toNat + (eb - e').toNat := by omega
  have hsign : (if (na != nb) = true then (-1 : Int) else 1) = (if na then -1 else 1) * (if nb then -1 else 1) := by
    cases na <;> cases nb <;> rfl
  simp only [scaled, hx, hsign, Nat.pow_add, Int.natCast_mul]
  ac_rfl

/-! ### The rounded magnitude (R38, R45, R51) -/

/-- On a place that keeps every bit, nothing is rounded. -/
theorem isRounded_self (mode : RMode) (st : BitVec 32) (m : Nat) (e : Int) : IsRounded mode st m e e m False := by
  cases mode <;> simp [IsRounded, Nat.mod_one, st.isLt]

/-- With no bit below the place the magnitude is taken whole. -/
theorem isRounded_whole {mode : RMode} {st : BitVec 32} {m M : Nat} {e q : Int} {inexact : Prop}
    (h : IsRounded mode st m e q M inexact) (hq : q ≤ e) : M = m * 2 ^ (e - q).toNat ∧ ¬inexact := by
  have hd : (q - e).toNat = 0 := by omega
  have hst : ¬1 ≤ st.toNat / 2 ^ 32 := by rw [Nat.div_eq_of_lt st.isLt]; decide
  simp only [IsRounded, hd, Nat.pow_zero, Nat.mod_one, Nat.div_one] at h
  obtain ⟨hx, hup, hdown⟩ := h
  refine ⟨hdown ?_, by simp [hx]⟩
  cases mode with
  | rne => simp
  | rtz => exact id
  | sr => simpa using hst

/-- With bits below the place the magnitude is what the model's rounding gives, inexact when one of them is set. -/
theorem isRounded_below {mode : RMode} {st : BitVec 32} {m M : Nat} {e q : Int} {inexact : Prop}
    (h : IsRounded mode st m e q M inexact) (hq : e < q) :
    M = roundMag mode st m (q - e).toNat ∧ (inexact ↔ m % 2 ^ (q - e).toNat ≠ 0) := by
  have hw : (e - q).toNat = 0 := by omega
  have hk : ¬min (q - e).toNat 32 = 0 := by omega
  simp only [IsRounded, hw, Nat.pow_zero, Nat.mul_one] at h
  obtain ⟨hx, hup, hdown⟩ := h
  refine ⟨?_, hx⟩
  cases mode with
  | rne =>
    simp only [roundMag, rneShift]
    split
    · exact hup ‹_›
    · exact hdown ‹_›
  | rtz => exact hdown id
  | sr =>
    simp only [roundMag, stoch, if_neg hk]
    split
    · exact hup ‹_›
    · exact hdown ‹_›

/-- The model's rounded magnitude, whole or not. -/
theorem isRounded_magnitude {mode : RMode} {st : BitVec 32} {m M : Nat} {e q : Int} {inexact : Prop}
    (h : IsRounded mode st m e q M inexact) :
    (if q - e ≤ 0 then m * 2 ^ (-(q - e)).toNat else roundMag mode st m (q - e).toNat) = M := by
  split
  · rw [(isRounded_whole h (by omega)).1, Int.neg_sub]
  · exact (isRounded_below h (by omega)).1.symm

/-- The model's test of an inexact rounding. -/
theorem isRounded_inexact {mode : RMode} {st : BitVec 32} {m M : Nat} {e q : Int} {inexact : Prop}
    (h : IsRounded mode st m e q M inexact) :
    (decide (0 < q - e) && m % 2 ^ (q - e).toNat != 0) = true ↔ inexact := by
  by_cases hq : q ≤ e
  · have hd : ¬0 < q - e := by omega
    rw [decide_eq_false hd]
    simp [(isRounded_whole h hq).2]
  · have hd : 0 < q - e := by omega
    rw [decide_eq_true hd]
    simp [(isRounded_below h (Int.not_le.1 hq)).2]

/-- Rounding moves to one of the two neighbours. -/
theorem isRounded_neighbour {mode : RMode} {st : BitVec 32} {m M : Nat} {e q : Int} {inexact : Prop}
    (h : IsRounded mode st m e q M inexact) :
    let floor := m * 2 ^ (e - q).toNat / 2 ^ (q - e).toNat
    floor ≤ M ∧ M ≤ floor + 1 := by
  obtain ⟨-, hup, hdown⟩ := h
  rcases (Classical.em _).imp hup hdown with hM | hM <;> simp [hM]

namespace FloatFmt

/-! ### The fields of a pattern (R42, R43) -/

/-- What the exponent fields of the five formats have in common: the ordinary exponents lie evenly about the bias, except in e4m3. -/
def Standard (f : FloatFmt) : Prop :=
  1 ≤ f.bias ∧ if f.e4 then f.mb = 3 ∧ f.eb = 4 ∧ f.bias = 7 else 2 ^ f.eb = 2 * f.bias + 2

/-- The pattern of a sign, an exponent field and a fraction. -/
def pattern (f : FloatFmt) (neg : Bool) (ex fr : Nat) : Nat := f.signBit neg + (ex * 2 ^ f.mb + fr)

/-- The fields of a finite value. -/
def FiniteFields (f : FloatFmt) (ex fr : Nat) : Prop := if f.e4 then ¬(ex = 15 ∧ fr = 7) else ex ≠ 2 ^ f.eb - 1

variable {f : FloatFmt} {neg : Bool} {ex fr : Nat}

theorem standard_of_float? {ty : ElemTy} (h : ty.float? = some f) : f.Standard ∧ f.width = ty.width := by
  cases ty <;> simp only [ElemTy.float?, Option.some.injEq, reduceCtorEq] at h <;> subst h <;>
    simp [Standard, width, ElemTy.width]

/-- Exponent field and fraction stay below the sign. -/
theorem fields_lt (hex : ex < 2 ^ f.eb) (hfr : fr < 2 ^ f.mb) : ex * 2 ^ f.mb + fr < 2 ^ (f.eb + f.mb) := by
  calc ex * 2 ^ f.mb + fr < (ex + 1) * 2 ^ f.mb := by rw [Nat.add_mul]; omega
    _ ≤ 2 ^ f.eb * 2 ^ f.mb := Nat.mul_le_mul_right _ hex
    _ = 2 ^ (f.eb + f.mb) := (Nat.pow_add ..).symm

theorem pattern_sign (hex : ex < 2 ^ f.eb) (hfr : fr < 2 ^ f.mb) :
    f.pattern neg ex fr / 2 ^ (f.eb + f.mb) = if neg then 1 else 0 := by
  have h := fields_lt hex hfr
  cases neg
  · simpa [pattern, signBit] using h
  · simp only [pattern, signBit, if_true]
    rw [Nat.add_div_left _ (Nat.two_pow_pos _), Nat.div_eq_of_lt h]

/-- The fraction lies below the exponent field, and that below the sign. -/
theorem pattern_eq : f.pattern neg ex fr = fr + 2 ^ f.mb * (ex + 2 ^ f.eb * if neg then 1 else 0) := by
  cases neg <;> simp [pattern, signBit, Nat.pow_add] <;> grind

theorem pattern_exponent (hex : ex < 2 ^ f.eb) (hfr : fr < 2 ^ f.mb) : f.pattern neg ex fr / 2 ^ f.mb % 2 ^ f.eb = ex := by
  rw [pattern_eq, Nat.add_mul_div_left _ _ (Nat.two_pow_pos _), Nat.div_eq_of_lt hfr, Nat.zero_add, Nat.add_mul_mod_self_left,
    Nat.mod_eq_of_lt hex]

theorem pattern_fraction (hfr : fr < 2 ^ f.mb) : f.pattern neg ex fr % 2 ^ f.mb = fr := by
  rw [pattern_eq, Nat.add_mul_mod_self_left, Nat.mod_eq_of_lt hfr]

/-- Every word of a format's width is the pattern of its fields. -/
theorem exists_pattern {x : Nat} (hx : x < 2 ^ f.width) :
    ∃ neg ex fr, ex < 2 ^ f.eb ∧ fr < 2 ^ f.mb ∧ x = f.pattern neg ex fr := by
  have hs : x / 2 ^ f.mb / 2 ^ f.eb < 2 := by
    rw [Nat.div_div_eq_div_mul, ← Nat.pow_add, Nat.div_lt_iff_lt_mul (Nat.two_pow_pos _)]
    calc x < 2 ^ f.width := hx
      _ = 2 * 2 ^ (f.mb + f.eb) := by rw [width, ← Nat.pow_succ']; congr 1; omega
  refine ⟨x / 2 ^ f.mb / 2 ^ f.eb = 1, x / 2 ^ f.mb % 2 ^ f.eb, x % 2 ^ f.mb, Nat.mod_lt _ (Nat.two_pow_pos _),
    Nat.mod_lt _ (Nat.two_pow_pos _), ?_⟩
  have hsign : f.signBit (x / 2 ^ f.mb / 2 ^ f.eb = 1) = 2 ^ f.mb * (2 ^ f.eb * (x / 2 ^ f.mb / 2 ^ f.eb)) := by
    rcases Nat.le_one_iff_eq_zero_or_eq_one.1 (Nat.le_of_lt_succ hs) with h | h
    · simp [signBit, h]
    · simp [signBit, h, Nat.pow_add, Nat.mul_comm]
  rw [pattern, hsign, Nat.mul_comm (x / 2 ^ f.mb % 2 ^ f.eb), ← Nat.add_assoc, ← Nat.mul_add, Nat.div_add_mod, Nat.div_add_mod]

/-- The sign bit of a pattern, as the reader tests it. -/
theorem decide_sign (neg : Bool) : decide ((if neg then 1 else 0) % 2 = 1) = neg := by cases neg <;> rfl

/-- R42: a finite pattern has its fields' value. -/
theorem read_of_finite (ftz : Bool) (hex : ex < 2 ^ f.eb) (hfr : fr < 2 ^ f.mb) (h : f.FiniteFields ex fr) :
    f.read ftz (f.pattern neg ex fr) =
      if ex = 0 then .fin neg (if ftz then 0 else fr) (f.emin - f.mb)
      else .fin neg (2 ^ f.mb + fr) ((ex : Int) - f.bias - f.mb) := by
  simp only [read, pattern_sign hex hfr, pattern_exponent hex hfr, pattern_fraction hfr, decide_sign]
  cases h4 : f.e4 <;> simp only [FiniteFields, h4, if_true, if_false, Bool.false_eq_true] at h
  · simp [h]
  · simp [if_neg h]

/-- R43: the other patterns are the infinities and the NaNs. -/
theorem read_of_not_finite (ftz : Bool) (hex : ex < 2 ^ f.eb) (hfr : fr < 2 ^ f.mb) (h : ¬f.FiniteFields ex fr) :
    f.read ftz (f.pattern neg ex fr) =
      if f.e4 then .nan false else if fr = 0 then .inf neg else .nan (fr < 2 ^ (f.mb - 1)) := by
  simp only [read, pattern_sign hex hfr, pattern_exponent hex hfr, pattern_fraction hfr, decide_sign]
  cases h4 : f.e4 <;> simp only [FiniteFields, h4, if_true, if_false, Bool.false_eq_true, Decidable.not_not] at h <;> simp [h]

/-! ### The place of a value (R46, R47) -/

/-- The exponent of the last place a value m · 2^e is rounded to: that of its precision, or of the smallest subnormal. -/
def place (f : FloatFmt) (m : Nat) (e : Int) : Int := max (e + Nat.log2 m) f.emin - f.mb

/-- M · 2^q exceeds the largest finite value. -/
abbrev Exceeds (f : FloatFmt) (q : Int) (M : Nat) : Prop := f.maxQ < q ∨ (q = f.maxQ ∧ f.maxM < M)

variable {mode : RMode} {st : BitVec 32} {m M : Nat} {e : Int} {inexact : Prop}

theorem emin_le_place (f : FloatFmt) (m : Nat) (e : Int) : f.emin ≤ f.place m e + f.mb := by
  simp only [place]; omega

/-- A rounded magnitude has at most one place more than the precision. -/
theorem rounded_le (h : IsRounded mode st m e (f.place m e) M inexact) : M ≤ 2 ^ (f.mb + 1) := by
  obtain ⟨-, hM⟩ := isRounded_neighbour h
  have hp : Nat.log2 m + 1 + (e - f.place m e).toNat ≤ (f.place m e - e).toNat + (f.mb + 1) := by
    simp only [place]; omega
  refine Nat.le_trans hM (Nat.div_lt_of_lt_mul ?_)
  calc m * 2 ^ (e - f.place m e).toNat
      < 2 ^ (Nat.log2 m + 1) * 2 ^ (e - f.place m e).toNat := Nat.mul_lt_mul_of_pos_right Nat.lt_log2_self (Nat.two_pow_pos _)
    _ = 2 ^ (Nat.log2 m + 1 + (e - f.place m e).toNat) := (Nat.pow_add ..).symm
    _ ≤ 2 ^ ((f.place m e - e).toNat + (f.mb + 1)) := Nat.pow_le_pow_right (by omega) hp
    _ = 2 ^ (f.place m e - e).toNat * 2 ^ (f.mb + 1) := Nat.pow_add ..

/-- What rounds below the precision stands on the subnormal place. -/
theorem place_of_rounded_lt (hm : m ≠ 0) (h : IsRounded mode st m e (f.place m e) M inexact) (hM : M < 2 ^ f.mb) :
    f.place m e = f.emin - f.mb := by
  refine Decidable.byContradiction fun hne => ?_
  obtain ⟨hfloor, -⟩ := isRounded_neighbour h
  have hp : f.mb + (f.place m e - e).toNat = Nat.log2 m + (e - f.place m e).toNat := by
    simp only [place] at hne ⊢; omega
  refine absurd hM (Nat.not_lt.2 (Nat.le_trans ((Nat.le_div_iff_mul_le (Nat.two_pow_pos _)).2 ?_) hfloor))
  rw [← Nat.pow_add, hp, Nat.pow_add]
  exact Nat.mul_le_mul_right _ (Nat.log2_self_le hm)

/-! ### The one rounding (R46, R47, R51) -/

/-- The pattern of the magnitude M · 2^q, where M has a place more than the fraction or q is the subnormal place. -/
def encode (f : FloatFmt) (neg : Bool) (q : Int) (M : Nat) : Nat :=
  f.signBit neg + ((q + f.mb - f.emin).toNat * 2 ^ f.mb + M)

/-- The pattern of a rounded normal magnitude, with the carry into the exponent that the model makes at the next power of two. -/
theorem encode_carry {q : Int} (hq : f.emin ≤ q + f.mb) (hlo : 2 ^ f.mb ≤ M) :
    f.signBit neg + (q + f.mb + f.bias + (if M = 2 ^ (f.mb + 1) then 1 else 0)).toNat * 2 ^ f.mb +
      (if M = 2 ^ (f.mb + 1) then 0 else M - 2 ^ f.mb) = f.encode neg q M := by
  obtain ⟨k, hk⟩ : ∃ k : Nat, (q + f.mb - f.emin).toNat = k := ⟨_, rfl⟩
  have hex (c : Int) (hc : 0 ≤ c) : (q + f.mb + f.bias + c).toNat = k + 1 + c.toNat := by simp only [emin] at hk hq; omega
  have h2 : 2 ^ (f.mb + 1) = 2 ^ f.mb * 2 := Nat.pow_succ ..
  rw [encode, hex _ (by split <;> decide), hk, Nat.add_assoc]
  congr 1
  by_cases hup : M = 2 ^ (f.mb + 1)
  · simp only [hup, if_true, Int.toNat_one, h2]
    grind
  · simp only [hup, if_false, Int.toNat_zero, Nat.add_mul, Nat.one_mul]
    omega

/-- The delivery of a rounded magnitude: overflow, flush, subnormal and normal, in the model's order. -/
theorem round_fin_eq (hm : m ≠ 0) (h : IsRounded mode st m e (f.place m e) M inexact) (ftz : Bool) :
    ∃ b : Bool, (b = true ↔ inexact) ∧ f.round ftz mode st (.fin neg m e) =
      let q := f.place m e
      let fl := flagIf b fInexact ||| flagIf (decide (e + Nat.log2 m < f.emin) && b) fUnderflow
      if f.maxQ < q ∨ (q = f.maxQ ∧ f.maxM < M) then f.overflowed mode neg
      else if M < 2 ^ f.mb then
        if ftz ∧ M ≠ 0 then (f.signBit neg, fUnderflow ||| fInexact) else (f.signBit neg + M, fl)
      else (f.signBit neg + (q + f.mb + f.bias + (if M = 2 ^ (f.mb + 1) then 1 else 0)).toNat * 2 ^ f.mb +
        (if M = 2 ^ (f.mb + 1) then 0 else M - 2 ^ f.mb), fl) := by
  refine ⟨_, isRounded_inexact h, ?_⟩
  obtain rfl := isRounded_magnitude h
  exact if_neg hm

/-- Everything that rounding a non-zero finite value can give. -/
theorem round_fin (hm : m ≠ 0) (h : IsRounded mode st m e (f.place m e) M inexact) (ftz : Bool) :
    let r := f.round ftz mode st (.fin neg m e)
    (f.Exceeds (f.place m e) M → r = f.overflowed mode neg) ∧
    (¬f.Exceeds (f.place m e) M → (ftz = true ∧ 0 < M ∧ M < 2 ^ f.mb) → r = (f.signBit neg, fUnderflow ||| fInexact)) ∧
    (¬f.Exceeds (f.place m e) M → ¬(ftz = true ∧ 0 < M ∧ M < 2 ^ f.mb) → ∃ b : Bool, (b = true ↔ inexact) ∧
      r = (f.encode neg (f.place m e) M, flagIf b fInexact ||| flagIf (decide (e + Nat.log2 m < f.emin) && b) fUnderflow)) := by
  obtain ⟨b, hb, hround⟩ := round_fin_eq (neg := neg) hm h ftz
  simp only [hround]
  refine ⟨fun hx => if_pos hx, fun hx hf => ?_, fun hx hf => ⟨b, hb, ?_⟩⟩ <;> refine (if_neg hx).trans ?_
  · obtain ⟨hz, h0, hM⟩ := hf
    rw [if_pos hM, if_pos ⟨hz, Nat.ne_of_gt h0⟩]
  · rcases Nat.lt_or_ge M (2 ^ f.mb) with hM | hM
    · have hz : ¬(ftz = true ∧ M ≠ 0) := fun hz => hf ⟨hz.1, Nat.pos_of_ne_zero hz.2, hM⟩
      rw [if_pos hM, if_neg hz, encode, place_of_rounded_lt hm h hM]
      simp
    · rw [if_neg (Nat.not_lt.2 hM), encode_carry (emin_le_place f m e) hM]

/-- R47: a value on its own place, within the range, is its own rounding and raises no flag. -/
theorem round_of_exact (neg : Bool) (mode : RMode) (st : BitVec 32) (hm : m ≠ 0) (hp : f.place m e = e)
    (hr : ¬f.Exceeds e m) : f.round false mode st (.fin neg m e) = (f.encode neg e m, 0) := by
  have h : IsRounded mode st m e (f.place m e) m False := by rw [hp]; exact isRounded_self ..
  obtain ⟨-, -, hkept⟩ := round_fin (neg := neg) hm h false
  obtain ⟨b, hb, hround⟩ := hkept (by rw [hp]; exact hr) (by simp)
  have hb : b = false := by simpa using hb
  simp [hround, hp, hb, flagIf]

/-! ### Encoding and the fields (R42, R46) -/

/-- The largest significand has the precision's length. -/
theorem maxM_bounds (hs : f.Standard) : 2 ^ f.mb ≤ f.maxM ∧ f.maxM < 2 ^ (f.mb + 1) := by
  obtain ⟨-, hs⟩ := hs
  cases h4 : f.e4 <;> simp only [h4, maxM, if_true, if_false, Bool.false_eq_true] at hs ⊢
  · have h2 : 2 ^ (f.mb + 1) = 2 ^ f.mb * 2 := Nat.pow_succ ..
    have hpos := Nat.two_pow_pos f.mb
    omega
  · obtain ⟨hmb, -, -⟩ := hs
    simp [hmb]

/-- R43, R46: the fields of a normal value are finite exactly when it does not exceed the largest finite value. -/
theorem finite_iff_not_exceeds (hs : f.Standard) (hfr : fr < 2 ^ f.mb) :
    ex < 2 ^ f.eb ∧ f.FiniteFields ex fr ↔ ¬f.Exceeds ((ex : Int) - f.bias - f.mb) (2 ^ f.mb + fr) := by
  obtain ⟨-, hs⟩ := hs
  cases h4 : f.e4 <;>
    simp only [h4, FiniteFields, Exceeds, maxQ, maxM, if_true, if_false, Bool.false_eq_true] at hs ⊢
  · have h2 : 2 ^ (f.mb + 1) = 2 ^ f.mb * 2 := Nat.pow_succ ..
    omega
  · obtain ⟨hmb, heb, hbias⟩ := hs
    simp only [hmb, heb, hbias] at hfr ⊢
    omega

/-- The exponent fields of the subnormals and of the smallest normals are finite. -/
theorem finite_of_le_one (hs : f.Standard) (hex : ex ≤ 1) : ex < 2 ^ f.eb ∧ f.FiniteFields ex fr := by
  obtain ⟨hbias, hs⟩ := hs
  cases h4 : f.e4 <;> simp only [h4, FiniteFields, if_true, if_false, Bool.false_eq_true] at hs ⊢
  · omega
  · obtain ⟨-, heb, -⟩ := hs
    simp only [heb]
    omega

/-- A subnormal does not exceed the largest finite value. -/
theorem not_exceeds_subnormal (hs : f.Standard) (hfr : fr < 2 ^ f.mb) : ¬f.Exceeds (f.emin - f.mb) fr := by
  have h := (finite_iff_not_exceeds hs hfr).1 (finite_of_le_one hs (Nat.le_refl 1))
  simp only [emin]
  omega

/-- R46: a carry to the next power of two stays within the range. -/
theorem not_exceeds_carry (hs : f.Standard) {q : Int} (h : ¬f.Exceeds q (2 ^ (f.mb + 1))) : ¬f.Exceeds (q + 1) (2 ^ f.mb) := by
  obtain ⟨hlo, hhi⟩ := maxM_bounds hs
  omega

/-- A magnitude that does not exceed the largest finite value has the fields of a finite pattern of the same value. -/
theorem encode_fields (hs : f.Standard) {q : Int} (neg : Bool) (hq : f.emin ≤ q + f.mb) (hM : M ≤ 2 ^ (f.mb + 1))
    (hsub : M < 2 ^ f.mb → q = f.emin - f.mb) (hr : ¬f.Exceeds q M) :
    ∃ ex fr, ex < 2 ^ f.eb ∧ fr < 2 ^ f.mb ∧ f.FiniteFields ex fr ∧ f.encode neg q M = f.pattern neg ex fr ∧
      scaled q (if ex = 0 then .fin neg fr (f.emin - f.mb) else .fin neg (2 ^ f.mb + fr) ((ex : Int) - f.bias - f.mb)) =
        scaled q (.fin neg M q) := by
  rcases Nat.lt_or_ge M (2 ^ f.mb) with hlt | hge
  · obtain rfl := hsub hlt
    obtain ⟨hex, hfin⟩ := finite_of_le_one (fr := M) hs (Nat.zero_le 1)
    exact ⟨0, M, hex, hlt, hfin, by simp [encode, pattern], by simp⟩
  · obtain ⟨k, hk⟩ : ∃ k : Nat, (q + f.mb - f.emin).toNat = k := ⟨_, rfl⟩
    have hq1 : q = (k + 1 : Nat) - f.bias - f.mb := by simp only [emin] at hk hq; omega
    rcases Nat.lt_or_eq_of_le hM with hM | rfl
    · obtain ⟨fr, rfl⟩ := Nat.exists_eq_add_of_le hge
      have hfr : fr < 2 ^ f.mb := by rw [Nat.pow_succ] at hM; omega
      obtain ⟨hex, hfin⟩ := (finite_iff_not_exceeds hs hfr).2 (hq1 ▸ hr)
      refine ⟨k + 1, fr, hex, hfr, hfin, ?_, ?_⟩
      · rw [encode, pattern, hk]
        grind
      · rw [if_neg k.succ_ne_zero, ← hq1]
    · have hq2 : q + 1 = (k + 2 : Nat) - f.bias - f.mb := by omega
      have hfr : 0 < 2 ^ f.mb := Nat.two_pow_pos _
      obtain ⟨hex, hfin⟩ := (finite_iff_not_exceeds hs hfr).2 (hq2 ▸ not_exceeds_carry hs hr)
      refine ⟨k + 2, 0, hex, hfr, hfin, ?_, ?_⟩
      · rw [encode, pattern, hk]
        grind
      · rw [if_neg (k + 1).succ_ne_zero, ← hq2]
        have h1 : (q + 1 - q).toNat = 1 := by omega
        simp only [scaled, h1, Int.sub_self, Int.toNat_zero, Nat.pow_succ, Nat.pow_zero, Nat.mul_one, Nat.one_mul,
          Nat.add_zero]

/-- R42: the pattern of a magnitude within the range reads as that magnitude, and holds its sign. -/
theorem read_encode (hs : f.Standard) {q : Int} (neg : Bool) (hq : f.emin ≤ q + f.mb) (hM : M ≤ 2 ^ (f.mb + 1))
    (hsub : M < 2 ^ f.mb → q = f.emin - f.mb) (hr : ¬f.Exceeds q M) :
    scaled q (f.read false (f.encode neg q M)) = scaled q (.fin neg M q) ∧
      f.encode neg q M / 2 ^ (f.eb + f.mb) = if neg then 1 else 0 := by
  obtain ⟨ex, fr, hex, hfr, hfin, hpat, hval⟩ := encode_fields hs neg hq hM hsub hr
  rw [hpat, read_of_finite false hex hfr hfin]
  exact ⟨hval, pattern_sign hex hfr⟩

/-- R42: a subnormal stands on its own place. -/
theorem place_subnormal (h0 : fr ≠ 0) (hfr : fr < 2 ^ f.mb) : f.place fr (f.emin - f.mb) = f.emin - f.mb := by
  have hlog := (Nat.log2_lt h0).2 hfr
  simp only [place]; omega

/-- R42: so does a normal value, whose significand has the precision's length. -/
theorem place_normal (h0 : ex ≠ 0) (hfr : fr < 2 ^ f.mb) :
    f.place (2 ^ f.mb + fr) ((ex : Int) - f.bias - f.mb) = (ex : Int) - f.bias - f.mb := by
  have hpos := Nat.two_pow_pos f.mb
  have hlog : Nat.log2 (2 ^ f.mb + fr) = f.mb := (Nat.log2_eq_iff (by omega)).2 ⟨by omega, by rw [Nat.pow_succ]; omega⟩
  simp only [place, hlog, emin]; omega

/-- R47: a finite pattern rounds to itself and raises no flag. -/
theorem round_finite_pattern (hs : f.Standard) (hex : ex < 2 ^ f.eb) (hfr : fr < 2 ^ f.mb) (h : f.FiniteFields ex fr) :
    f.round false mode st (f.read false (f.pattern neg ex fr)) = (f.pattern neg ex fr, 0) := by
  rw [read_of_finite false hex hfr h]
  by_cases hsub : ex = 0
  · subst hsub
    by_cases h0 : fr = 0
    · simp [h0, round, pattern]
    · simp [round_of_exact neg mode st h0 (place_subnormal h0 hfr) (not_exceeds_subnormal hs hfr), encode, pattern]
  · have hpos := Nat.two_pow_pos f.mb
    have hr := (finite_iff_not_exceeds hs hfr).1 ⟨hex, h⟩
    have hk : ((ex : Int) - f.bias - f.mb + f.mb - f.emin).toNat + 1 = ex := by simp only [emin]; omega
    rw [if_neg hsub, round_of_exact neg mode st (by omega) (place_normal hsub hfr) hr]
    simp only [encode, pattern, Prod.mk.injEq, and_true]
    conv => rhs; rw [← hk]
    grind

/-- R47: every pattern that is no NaN rounds to itself and raises no flag, an infinity too. -/
theorem round_read (hs : f.Standard) (mode : RMode) (st : BitVec 32) {x : Nat} (hx : x < 2 ^ f.width)
    (h : (f.read false x).isNaN = false) : f.round false mode st (f.read false x) = (x, 0) := by
  obtain ⟨neg, ex, fr, hex, hfr, rfl⟩ := exists_pattern hx
  by_cases hfin : f.FiniteFields ex fr
  · exact round_finite_pattern hs hex hfr hfin
  · rw [read_of_not_finite false hex hfr hfin] at h ⊢
    have h4 : f.e4 = false := by cases h4 : f.e4 <;> simp [h4, FVal.isNaN] at h ⊢
    have hfr0 : fr = 0 := Decidable.byContradiction fun h0 => by simp [h4, h0, FVal.isNaN] at h
    have hex' : ex = 2 ^ f.eb - 1 := by simpa [FiniteFields, h4] using hfin
    simp [round, h4, hfr0, hex', pattern, infBits]

end FloatFmt

end Sys2Proof.Machine

namespace Sys2Proof.Safety

open Sys2Proof.Machine

/-- Settles O18: sums and products are exact on a common scale, and the one rounding is the encoding of the rounded magnitude, which the
fields of its pattern give back. -/
theorem exactNumbers : Obligations.ExactNumbers := by
  unfold Obligations.ExactNumbers
  refine ⟨?_, ?_, ?_⟩
  · intro na nb nc ma mb mc ea eb ec e e' ha hb x y z
    refine ⟨scaled_mul na nb ma mb ha hb, scaled_addFin na nb ma mb ha, fun hc => ?_, addFin_of_sum_zero ha, rfl, rfl⟩
    rw [← scaled_mul na nb ma mb ha hb]
    exact scaled_addFin _ nc _ mc (Int.add_le_add ha hb) hc
  · intro ty f mode st x hf hx hnan
    obtain ⟨hs, hw⟩ := FloatFmt.standard_of_float? hf
    exact FloatFmt.round_read hs mode st (hw ▸ hx) hnan
  · intro ty f mode st ftz neg m e M inexact hf hm top q r hM huge flushed
    obtain ⟨hs, -⟩ := FloatFmt.standard_of_float? hf
    obtain ⟨hover, hflush, hkept⟩ := FloatFmt.round_fin (neg := neg) hm hM ftz
    refine ⟨fun hx => (hover hx).trans ?_, hflush, fun hx hz => ?_⟩
    · simp [FloatFmt.overflowed]
    · obtain ⟨b, hb, hr⟩ := hkept hx hz
      obtain ⟨hval, hsign⟩ := FloatFmt.read_encode hs neg (FloatFmt.emin_le_place f m e) (FloatFmt.rounded_le hM)
        (FloatFmt.place_of_rounded_lt hm hM) hx
      have hr1 : r.1 = f.encode neg q M := congrArg Prod.fst hr
      rw [hr1]
      refine ⟨hval, hsign, fun hi => ?_, fun hi => ?_⟩
      · have hb : b = true := hb.2 hi
        simp [r, hr, hb, flagIf, top]
      · have hb : b = false := by simpa using mt hb.1 hi
        simp [r, hr, hb, flagIf]

end Sys2Proof.Safety
end

section
/-! SUPPORT. The control registers: what setfm, setfcr and wrctl write, and what rdctl reads by number (R45, R50, R77, R79, R152). -/

namespace Sys2Proof.Machine

open Sys2Proof.Safety

/-! ### Values written (R45, R50) -/

/-- A write of fcr keeps the low three bits, a reserved rounding code as 00. -/
theorem fcrValue_eq (v : Word) :
    fcrValue v = if v.toNat % 4 = 3 then BitVec.ofNat 3 (v.toNat / 4 % 2 * 4) else BitVec.ofNat 3 v.toNat := by
  have top : ∀ x : BitVec 3, x &&& 4 = BitVec.ofNat 3 (x.toNat / 4 * 4) := by decide
  have hlow : v.toNat % 2 ^ 3 / 4 = v.toNat / 4 % 2 := by omega
  unfold fcrValue
  split
  · rw [top, BitVec.toNat_setWidth, hlow]
  · rfl

/-- What a write of an LFSR stores: 0 becomes 1 (R50). -/
def lfsrValue (v : Word) : BitVec 32 := if v.setWidth 32 = (0 : BitVec 32) then 1 else v.setWidth 32

theorem lfsrValue_toNat (v : Word) : (lfsrValue v).toNat = if v.toNat % 2 ^ 32 = 0 then 1 else v.toNat % 2 ^ 32 := by
  have hz : v.setWidth 32 = (0 : BitVec 32) ↔ v.toNat % 2 ^ 32 = 0 := by
    rw [← BitVec.toNat_inj, BitVec.toNat_setWidth]
    rfl
  unfold lfsrValue
  by_cases h : v.toNat % 2 ^ 32 = 0
  · rw [if_pos (hz.2 h), if_pos h]
    rfl
  · rw [if_neg (mt hz.1 h), if_neg h, BitVec.toNat_setWidth]

namespace CoreTask

@[simp] theorem lfsrOf_setLfsr_same (t : CoreTask) (k : Nat) (v : BitVec 32) : (t.setLfsr k v).lfsrOf k = v :=
  mget_mset_same ..

theorem lfsrOf_setLfsr_other (t : CoreTask) {j k : Nat} (v : BitVec 32) (h : j ≠ k) : (t.setLfsr k v).lfsrOf j = t.lfsrOf j :=
  mget_mset_other _ _ _ h

/-- Outside every routine no clause denies a lane (R223). -/
theorem laneDenied_of_no_frame {t : CoreTask} (h : t.r.frames = []) (lanes : List Nat) : t.laneDenied lanes = none := by
  simp [laneDenied, contracts, h]

end CoreTask

/-! ### The syllables that write (R79, R152) -/

section
variable {g : Guard} {a : SSrc} {s : State}

theorem setfm_acts {k : Fin 8} (h : Acts s (.setfm g k a) g) :
    exec (.setfm g k a) s = .next (s.onT (·.shadow (.fm k (s.t.src a)))) := controlOp_acts h

theorem setfcr_acts_fcr (h : Acts s (.setfcr g false a) g) :
    exec (.setfcr g false a) s = .next (s.onT (·.shadow (.fcr (fcrValue (s.t.src a))))) := controlOp_acts h

theorem setfcr_acts_fsr (h : Acts s (.setfcr g true a) g) :
    exec (.setfcr g true a) s = .next (s.onT (·.shadow (.fsr ((s.t.src a).setWidth 6)))) := controlOp_acts h

theorem wrctl_acts_fcr (h : Acts s (.wrctl g 0x000 a) g) :
    exec (.wrctl g 0x000 a) s = .next (s.onT (·.shadow (.fcr (fcrValue (s.t.src a))))) := controlOp_acts h

theorem wrctl_acts_fsr (h : Acts s (.wrctl g 0x001 a) g) :
    exec (.wrctl g 0x001 a) s = .next (s.onT (·.shadow (.fsr ((s.t.src a).setWidth 6)))) := controlOp_acts h

variable {r : BitVec 12}

theorem wrctl_acts_fm {k : Fin 8} (hr : r.toNat = 0x010 + k.val) (h : Acts s (.wrctl g r a) g) :
    exec (.wrctl g r a) s = .next (s.onT (·.shadow (.fm k (s.t.src a)))) := by
  have hk : fin 8 (0x010 + k.val - 0x010) = k := by
    rw [Nat.add_sub_cancel_left]
    exact Fin.ofNat_val_eq_self k
  refine (controlOp_acts h).trans ?_
  simp only [State.onT, hr, hk]
  rw [if_neg (by omega), if_neg (by omega), if_pos (by omega)]

/-- An LFSR outside every routine is written at once. -/
theorem wrctl_acts_lfsr {k : Nat} (hr : r.toNat = 0x100 + k) (hf : s.t.r.frames = []) (h : Acts s (.wrctl g r a) g) :
    exec (.wrctl g r a) s = .next (s.onT (·.setLfsr k (lfsrValue (s.t.src a)))) := by
  refine (controlOp_acts h).trans ?_
  simp only [State.onT, hr, Nat.add_sub_cancel_left, CoreTask.laneDenied_of_no_frame hf]
  rw [if_neg (by omega), if_neg (by omega), if_neg (by omega)]
  rfl

end

/-! ### Reads by number (R77) -/

theorem ctlReg_fm (s : State) {k : Nat} (hk : k < 8) : s.ctlReg (0x010 + k) = s.t.fm k := by
  unfold State.ctlReg
  rw [if_neg (by omega), if_neg (by omega), if_pos (by omega), Nat.add_sub_cancel_left]
  rfl

/-- From 0x070 up stand the counters, then the LFSRs. -/
theorem ctlReg_above (s : State) {n : Nat} (hn : 0x070 ≤ n) :
    s.ctlReg n = if n < 0x080 then BitVec.ofNat 64 (s.t.ctr (n - 0x070)) else (s.t.lfsrOf (n - 0x100)).setWidth 64 := by
  have hnamed : ∀ m < 0x070, n ≠ m := fun m hm => by omega
  have hfm : ¬ n < 0x018 := by omega
  simp [State.ctlReg, hnamed, hfm]

theorem ctlReg_ctr (s : State) {k : Nat} (hk : k < 16) : s.ctlReg (0x070 + k) = BitVec.ofNat 64 (s.t.ctr k) := by
  rw [ctlReg_above s (by omega), if_pos (by omega), Nat.add_sub_cancel_left]

theorem ctlReg_lfsr (s : State) (k : Nat) : s.ctlReg (0x100 + k) = (s.t.lfsrOf k).setWidth 64 := by
  rw [ctlReg_above s (by omega), if_neg (by omega), Nat.add_sub_cancel_left]

/-- LCYCLE counts the groups issued before the one that reads it, which a group issued again has not yet left (R77, R151). -/
theorem ctlReg_lcycle (s : State) : s.ctlReg 0x056 = if s.t.pipe.recount then s.t.r.lcycle - 1 else s.t.r.lcycle := rfl

/-- DTIME is device time in a launch that is not redundant (R77). -/
theorem ctlReg_dtime {s : State} (h : s.t.id.copies ≤ 1) : s.ctlReg 0x057 = BitVec.ofNat 64 s.deviceTime :=
  if_neg (Nat.not_lt.2 h)

/-! ### rdctl (R152) -/

namespace CoreTask

theorem flagMask_go_task (t u : CoreTask) (l : List ((Nat × List Clause) × Frame)) (f : Flags) :
    flagMask.go t l f = flagMask.go u l f := by
  induction l generalizing f with
  | nil => rfl
  | cons c l ih =>
    unfold flagMask.go
    split
    · rfl
    · exact ih _

/-- The held set has no part in how a result is put in flight. -/
theorem result_pipe_held (t : CoreTask) (held : Held) (cls : Nat) (e : Eff) (fl : Flags) :
    ({ t with held }.result cls e fl).pipe = (t.result cls e fl).pipe := by
  have hmask : { t with held }.flagMask = t.flagMask := flagMask_go_task ..
  simp only [result, schedule, hmask]
  rfl

end CoreTask

theorem noteInput_eq (t : CoreTask) (n : Nat) (v : Word) : ∃ inputs, noteInput t n v = { t with held.inputs := inputs } := by
  unfold noteInput
  split
  · split
    · exact ⟨_, rfl⟩
    · split <;> exact ⟨_, rfl⟩
  · exact ⟨_, rfl⟩

/-- rdctl puts the value of its register in flight, of class 7 and with no latch, and changes nothing else but what an ordered task
notes of it. -/
theorem rdctl_acts {g : Guard} {d : SReg} {n : Nat} {v : Word} {s : State} (hn : n < 2 ^ 12) (hv : s.ctlReg n = v)
    (h : Acts s (.rdctl g d (BitVec.ofNat 12 n)) g) : ∃ u, exec (.rdctl g d (BitVec.ofNat 12 n)) s = .next u ∧
      u.t.pipe = (s.t.result 7 (.sreg s.t.level (some d) none v) 0).pipe ∧ u.t.r = s.t.r ∧ u.t.lm = s.t.lm ∧ u.t.eng = s.t.eng ∧
      u.mem = s.mem ∧ u.rest = s.rest := by
  obtain ⟨inputs, hnote⟩ := noteInput_eq s.t n v
  have hexec : exec (.rdctl g d (BitVec.ofNat 12 n)) s =
      .next (s.onT fun t => (noteInput t n v).result 7 (.sreg t.level (some d) none v) 0) := by
    change execRdctl g d (BitVec.ofNat 12 n) s = _
    rw [execRdctl, syllable_acts h.1 h.2, BitVec.toNat_ofNat, Nat.mod_eq_of_lt hn, hv]
  refine ⟨_, hexec, ?_⟩
  simp only [State.onT_t, State.onT_mem, State.onT_rest, hnote]
  exact ⟨CoreTask.result_pipe_held .., rfl, rfl, rfl, trivial, trivial⟩

end Sys2Proof.Machine

namespace Sys2Proof.Safety

open Sys2Proof.Machine

/-- Settles O15: each write is its syllable's one effect, in the shadow or, of an LFSR, at once; each read is the register that its number
names. -/
theorem controlRegisters : Obligations.ControlRegisters := by
  unfold Obligations.ControlRegisters
  refine ⟨?_, ?_⟩
  · intro g k l a s v fcr later wr
    have hfcr : fcrValue v = fcr := fcrValue_eq v
    have number {n : Nat} (h : n < 2 ^ 12) : (BitVec.ofNat 12 n).toNat = n := Nat.mod_eq_of_lt h
    refine ⟨setfm_acts, hfcr ▸ setfcr_acts_fcr, setfcr_acts_fsr, hfcr ▸ wrctl_acts_fcr, wrctl_acts_fsr,
      wrctl_acts_fm (number (by omega)), fun h hf => ⟨_, wrctl_acts_lfsr (number (by omega)) hf h, ?_, ?_, rfl, rfl⟩⟩
    · exact (congrArg BitVec.toNat (CoreTask.lfsrOf_setLfsr_same ..)).trans (lfsrValue_toNat v)
    · exact fun j hj => CoreTask.lfsrOf_setLfsr_other _ _ hj
  · intro g d s t reads
    have named (n : Nat) {v : Word} (hv : s.ctlReg n = v) (hn : n < 2 ^ 12 := by decide) : reads n v := rdctl_acts hn hv
    refine ⟨named 0x000 rfl, named 0x001 rfl, fun k hk => named _ (ctlReg_fm s hk) (by omega), named 0x050 rfl, named 0x051 rfl,
      named 0x052 rfl, named 0x053 rfl, named 0x054 rfl, named 0x055 rfl, fun h => named 0x056 ?_, fun h => named 0x056 ?_,
      fun h => named 0x057 (ctlReg_dtime h), named 0x060 rfl, named 0x061 rfl, named 0x062 rfl, named 0x063 rfl,
      fun k hk => named _ (ctlReg_ctr s hk) (by omega), fun k hk => named _ (ctlReg_lfsr s k) (by omega)⟩
    · rw [ctlReg_lcycle, h, if_neg Bool.false_ne_true]
    · rw [ctlReg_lcycle, h, if_pos rfl]

end Sys2Proof.Safety
end

section
/-! SUPPORT. Where the sequencer of a task stands: what results that become visible leave alone (R70, R73), and what the stops that
fall before a group leave behind (R345, R346). -/

namespace Sys2Proof.Machine

/-! ### The sequencer's place, which no result in flight moves (R70, R141) -/

/-- What a task's sequencer goes by: who the task is, the program counter, the innermost loops, the call stack, and the waits. -/
structure SeqPlace where
  id : Ident
  pc : Nat
  loops : List LoopEnt
  calls : List CallEnt
  waits : List Wait

namespace CoreTask

/-- Where a task's sequencer stands. -/
def seqPlace (t : CoreTask) : SeqPlace :=
  { id := t.id, pc := t.r.pc, loops := t.r.b.loops, calls := t.r.calls, waits := t.pipe.waits }

/-- What no step of a fold moves stays in place through the fold. -/
theorem foldl_seqPlace {σ α : Type} (π : σ → CoreTask) (f : σ → α → σ) (hf : ∀ x a, (π (f x a)).seqPlace = (π x).seqPlace)
    (l : List α) (x : σ) : (π (l.foldl f x)).seqPlace = (π x).seqPlace := by
  induction l generalizing x with
  | nil => rfl
  | cons a l ih => exact (ih _).trans (hf x a)

theorem foldl_task_seqPlace {α : Type} {f : CoreTask → α → CoreTask} (hf : ∀ t a, (f t a).seqPlace = t.seqPlace)
    (l : List α) (t : CoreTask) : (l.foldl f t).seqPlace = t.seqPlace :=
  foldl_seqPlace (fun u => u) f hf l t

theorem onBank_seqPlace (t : CoreTask) (lvl : Nat) {f : Bank → Bank} (hf : ∀ b, (f b).loops = b.loops) :
    (t.onBank lvl f).seqPlace = t.seqPlace := by
  unfold onBank
  split
  · simp [seqPlace, hf]
  · split <;> rfl

@[simp] theorem setSReg_seqPlace (t : CoreTask) (lvl : Nat) (r : SReg) (v : Word) : (t.setSReg lvl r v).seqPlace = t.seqPlace := by
  cases r with
  | s n =>
    unfold setSReg
    dsimp only
    split
    · rfl
    · exact onBank_seqPlace t lvl fun _ => rfl
  | q n => exact onBank_seqPlace t lvl fun _ => rfl

@[simp] theorem setLatch_seqPlace (t : CoreTask) (lvl : Nat) (l : Latch) (v : Word) : (t.setLatch lvl l v).seqPlace = t.seqPlace := by
  cases l <;> exact onBank_seqPlace t lvl fun _ => rfl

@[simp] theorem setPred_seqPlace (t : CoreTask) (lvl : Nat) (k : Fin 8) (v : Bool) : (t.setPred lvl k v).seqPlace = t.seqPlace := by
  unfold setPred
  split
  · rfl
  · exact onBank_seqPlace t lvl fun _ => rfl

@[simp] theorem setRow_seqPlace (t : CoreTask) (lvl : Nat) (d : RowAt) (v : Row) : (t.setRow lvl d v).seqPlace = t.seqPlace := by
  cases d with
  | yt => exact onBank_seqPlace t lvl fun _ => rfl
  | _ => rfl

@[simp] theorem setStage_seqPlace (t : CoreTask) (r : Stage) (v : Word) : (t.setStage r v).seqPlace = t.seqPlace := by
  cases r <;> rfl

@[simp] theorem setExponent_seqPlace (t : CoreTask) (n : Fin 4) (e : BitVec 16) : (t.setExponent n e).seqPlace = t.seqPlace := rfl

@[simp] theorem accRow_seqPlace (t : CoreTask) (n : Fin 4) (r : Nat) (f : Nat → Word → Word × Flags) :
    (t.accRow n r f).1.seqPlace = t.seqPlace := by
  unfold accRow
  refine foldl_seqPlace Prod.fst _ (fun p c => ?_) _ (t, 0)
  rfl

@[simp] theorem loadRow_seqPlace (t : CoreTask) (q : LoadReq) (d : RowAt) (vals : List Nat) :
    (t.loadRow q d vals).seqPlace = t.seqPlace := setRow_seqPlace ..

/-- A load's destination is no part of the sequencer (R72). -/
@[simp] theorem finishLoad_seqPlace (t : CoreTask) (q : LoadReq) (vals : List Nat) : (t.finishLoad q vals).seqPlace = t.seqPlace := by
  unfold finishLoad
  cases q.row with
  | some d => cases q.pair <;> simp
  | none => cases q.dst <;> simp

/-- No effect of a result moves the sequencer (R70, R79, R174). -/
@[simp] theorem applyEff_seqPlace (t : CoreTask) (ord : Nat) (e : Eff) : (t.applyEff ord e).1.seqPlace = t.seqPlace := by
  cases e with
  | sreg lvl d l v => cases d <;> cases l <;> simp [applyEff]
  | pred | stage | ppac | accwr | accrd | load => simp only [applyEff, setPred_seqPlace, setStage_seqPlace, accRow_seqPlace,
      setRow_seqPlace, finishLoad_seqPlace]
  | row lvl d yt lanes v =>
    simp only [applyEff]
    split <;> simp only [setRow_seqPlace]
  | accz n f k e =>
    simp only [applyEff]
    refine (foldl_task_seqPlace (fun u i => ?_) _ (t.setExponent n e)).trans rfl
    refine foldl_task_seqPlace (fun u c => ?_) _ u
    rfl
  | accld n f v =>
    simp only [applyEff]
    refine foldl_task_seqPlace (fun u i => ?_) _ t
    refine foldl_task_seqPlace (fun u c => ?_) _ u
    rfl
  | accexp n e =>
    simp only [applyEff]
    rw [setExponent_seqPlace]
    refine foldl_seqPlace Prod.fst _ (fun p r => ?_) _ (t, 0)
    simp only [accRow_seqPlace]
  | mask | accst | planeBytes | fcr | fsr | fm | loadBad => rfl

@[simp] theorem landOne_seqPlace (t : CoreTask) (p : Pend) : (t.landOne p).seqPlace = t.seqPlace :=
  applyEff_seqPlace t p.ord p.eff

@[simp] theorem settleLoads_seqPlace (t : CoreTask) : t.settleLoads.seqPlace = t.seqPlace := by
  unfold settleLoads
  exact foldl_task_seqPlace (fun _ _ => finishLoad_seqPlace ..) _ _

@[simp] theorem land_seqPlace (t : CoreTask) : t.land.seqPlace = t.seqPlace := by
  have landAll (l : List Pend) (u : CoreTask) : (l.foldl landOne u).seqPlace = u.seqPlace :=
    foldl_task_seqPlace landOne_seqPlace l u
  unfold land
  rw [settleLoads_seqPlace, landAll, landAll]
  rfl

@[simp] theorem soundSectors_seqPlace (t : CoreTask) (l : List Nat) : (t.soundSectors l).seqPlace = t.seqPlace := by
  unfold soundSectors
  split <;> rfl

@[simp] theorem leaveBehind_seqPlace (t : CoreTask) (a n path ord : Nat) (own : Bool) (rs : List Nat) :
    (t.leaveBehind a n path ord own rs).seqPlace = t.seqPlace := by
  obtain ⟨behind, h⟩ := leaveBehind_eq t a n path ord own rs
  rw [h]
  rfl

@[simp] theorem putScratches_seqPlace (t : CoreTask) (a : Nat) (bs : List Byte) (g : BitVec 4) :
    (t.putScratches a bs g).seqPlace = t.seqPlace := by
  obtain ⟨tags, h⟩ := putScratches_eq t a bs g
  rw [h]
  rfl

/-- The writes that a cycle ends with are the scratchpad's own (R251). -/
@[simp] theorem closeCycle_seqPlace (t : CoreTask) : t.closeCycle.seqPlace = t.seqPlace := by
  have write (u : CoreTask) (c : PlaneWrite × List Byte) :
      (((u.keepOld c.1.addr c.2.length).leaveBehind c.1.addr c.2.length 1 c.1.ord true c.1.readers).putScratches
        c.1.addr c.2 0).seqPlace = u.seqPlace := by
    rw [putScratches_seqPlace, leaveBehind_seqPlace]
    rfl
  have writes := (foldl_task_seqPlace write (runs t.lm.plane)
    (soundSectors { t with lm.plane := [] } (t.lm.plane.map (·.addr)))).trans (soundSectors_seqPlace ..)
  unfold closeCycle
  dsimp only
  split <;> exact writes

/-- Core cycles without a group leave the sequencer where it is. -/
@[simp] theorem landN_seqPlace (n : Nat) (t : CoreTask) : (landN n t).seqPlace = t.seqPlace := by
  induction n generalizing t with
  | zero => rfl
  | succ n ih => rw [landN, ih, closeCycle_seqPlace, land_seqPlace]

/-! ### What a stop before a group leaves (R345) -/

/-- A task `q` that task `p` has become by a stop before its next group: xpc and the pc at that group, bit 15 of xcause set with the
cause, xval the value, and the sequencer's stacks as they were. -/
structure StoppedBefore (p q : CoreTask) (st : TaskSt) (cause v : Nat) : Prop where
  core : q.id.core = p.id.core
  st : q.ctl.st = st
  xpc : q.r.xpc = BitVec.ofNat 64 p.r.pc
  pc : q.r.pc = p.r.pc
  xcause : q.r.xcause = BitVec.ofNat 32 (2 ^ 15 + cause)
  xval : q.r.xval = BitVec.ofNat 64 v
  loops : q.r.b.loops = p.r.b.loops
  calls : q.r.calls = p.r.calls

/-- The trap of a stop between groups: no syllable's class, no subcode and no reason. -/
def betweenTrap (cause v : Nat) : Trap := { cause, sub := 0, cls := 0, val := BitVec.ofNat 64 v, reason := 0 }

theorem unfire_of_no_wait {t : CoreTask} (hw : t.pipe.waits = []) : t.unfire = t := by
  simp [unfire, hw]

/-- A stop between two core cycles falls before the next group, whatever lands before it. -/
theorem stopNow_stoppedBefore {t : CoreTask} (hw : t.pipe.waits = []) (cause v : Nat) :
    StoppedBefore t (t.stopNow (betweenTrap cause v)) .faulted cause v := by
  have hplace := landN_seqPlace (1 + t.pipe.hold) t
  unfold stopNow
  rw [hw, List.isEmpty_nil, if_pos rfl]
  generalize landN (1 + t.pipe.hold) t = u at hplace ⊢
  obtain ⟨hid, hpc, hloops, hcalls, hwaits⟩ := SeqPlace.mk.inj hplace
  rw [hw] at hwaits
  unfold stopBetween takeTrap
  rw [hwaits, List.isEmpty_nil, if_pos rfl, unfire_of_no_wait hwaits]
  exact ⟨congrArg Ident.core hid, rfl, congrArg (BitVec.ofNat 64) hpc, hpc, by simp [betweenTrap], rfl, hloops, hcalls⟩

/-- A task that has stopped at a pre-emption point: no fault, and nothing to report (R149, R310). -/
def yielded (t : CoreTask) : CoreTask :=
  { t.stopNow (betweenTrap 0 0) with ctl.st := .stopping, ctl.stopVal := none, ctl.stopReq := false }

theorem yielded_stoppedBefore {t : CoreTask} (hw : t.pipe.waits = []) : StoppedBefore t t.yielded .stopping 0 0 :=
  { stopNow_stoppedBefore hw 0 0 with st := rfl }

end CoreTask

/-! ### Which stop is due before a group, and taking it (R346) -/

namespace State

theorem expireWaits_of_no_wait {s : State} (hw : s.t.pipe.waits = []) : s.expireWaits = s := by
  simp [expireWaits, endLast, hw]

theorem leaveBar_of_no_wait {s : State} (hw : s.t.pipe.waits = []) : s.leaveBar = s := by
  simp [leaveBar, endLast, hw]

/-- A task that waits for nothing stops by itself: no timeout, barrier or native call has a part in it. -/
theorem stopTask_of_no_wait {s : State} (hw : s.t.pipe.waits = []) (tr : Trap) :
    s.stopTask tr false = s.onT (·.stopNow tr) := by
  unfold stopTask
  rw [expireWaits_of_no_wait hw, leaveBar_of_no_wait hw]
  dsimp only
  rw [hw]
  rfl

/-- The stop that is due is taken by a task that runs. -/
theorem takeStop_of_running {s : State} {tr : Trap} (hr : s.t.ctl.st = .running) (hw : s.t.pipe.waits = [])
    (hdue : s.dueStop = some tr) : s.takeStop false = s.onT (·.stopNow tr) := by
  have hgoing : s.t.going = true := by simp [CoreTask.going, hr]
  unfold takeStop
  rw [hdue]
  exact (if_pos hgoing).trans (stopTask_of_no_wait hw tr)

theorem traceStop_untraced {s : State} (htr : s.dbg.trCtl.getLsbD 0 = false) : s.traceStop = s := by
  have hno : s.tracing = false := by rw [tracing, bitOf, htr, Bool.false_and]
  rw [traceStop, hno]
  rfl

/-- The stop of pre-emption of a task that waits for nothing; an untraced one writes no record. -/
theorem yieldTask_of_no_wait {s : State} (hw : s.t.pipe.waits = []) (htr : s.dbg.trCtl.getLsbD 0 = false) :
    s.yieldTask false = s.onT (·.yielded) := by
  unfold yieldTask
  rw [stopTask_of_no_wait hw, traceStop_untraced (by exact htr)]
  rfl

section
variable {s : State} (hd : s.t.ctl.due = [])
include hd

/-- A freeze that has lasted comes before every other stop, once no memory error or engine fault is due. -/
theorem dueStop_freeze (hf : 2 ^ 20 ≤ s.t.pipe.freeze) :
    s.dueStop = some (CoreTask.betweenTrap 0x0D s.t.freezeSource) := by
  simp only [dueStop, hd, List.find?_nil, Option.none_or, if_pos hf, Option.some_or]
  rfl

/-- A declared interval that has passed comes after a freeze alone. -/
theorem dueStop_interval (hf : s.t.pipe.freeze < 2 ^ 20) (hi : s.t.code.interval ≤ s.t.pipe.interv) :
    s.dueStop = some (CoreTask.betweenTrap 0x13 s.t.code.interval) := by
  simp only [dueStop, hd, List.find?_nil, Option.none_or, if_neg (Nat.not_le.2 hf), if_pos hi, Option.some_or]
  rfl

variable (hf : s.t.pipe.freeze < 2 ^ 20) (hi : s.t.pipe.interv < s.t.code.interval)
include hf hi

/-- A breakpoint comes after the errors, and before a stop request. -/
theorem dueStop_breakpoint {n : Nat} (hb : s.breakpoint = some n) :
    s.dueStop = some (CoreTask.betweenTrap 0x10 (2 ^ 32 + n)) := by
  simp only [dueStop, hd, List.find?_nil, Option.none_or, if_neg (Nat.not_le.2 hf), if_neg (Nat.not_le.2 hi), hb,
    Option.map_some, Option.some_or]
  rfl

/-- A stop request comes last, and waits while a transfer holds the task. -/
theorem dueStop_request (hb : s.breakpoint = none) (hh : s.t.pipe.hold = 0) :
    s.dueStop = if s.t.ctl.dbgReq then some (CoreTask.betweenTrap 0x10 (2 ^ 33)) else none := by
  simp only [dueStop, hd, List.find?_nil, Option.none_or, if_neg (Nat.not_le.2 hf), if_neg (Nat.not_le.2 hi), hb,
    Option.map_none, hh, decide_true, Bool.or_true, Bool.and_true]
  rfl

end

/-- The breakpoint of a group about to issue on the target (R352). -/
theorem breakpoint_of_match {s : State} {n : Nat} (hw : s.t.pipe.waits = [])
    (ht : (s.isTarget s.t && s.t.pipe.hold == 0 && !s.t.pipe.bpSkip) = true)
    (hn : (List.range 4).find? (fun n => bitOf (mget 0 s.dbg.bp n) 31 && (mget 0 s.dbg.bp n).toNat % 2 ^ 14 == s.t.r.pc) = some n) :
    s.breakpoint = some n := by
  simp only [Bool.and_eq_true, beq_iff_eq] at ht
  obtain ⟨⟨htarget, hhold⟩, hskip⟩ := ht
  unfold breakpoint
  rw [if_pos (by simp [htarget, hw, hhold, hskip]), ← hn]
  rfl

/-- No breakpoint stops a task that is not the target, one that an address breakpoint has stopped already at this issue, or one at a
group that no enabled breakpoint names (R352). -/
theorem breakpoint_none {s : State}
    (hclear : s.isTarget s.t = true → s.t.pipe.bpSkip = true ∨
      ∀ n < 4, bitOf (mget 0 s.dbg.bp n) 31 = true → (mget 0 s.dbg.bp n).toNat % 2 ^ 14 ≠ s.t.r.pc) :
    s.breakpoint = none := by
  unfold breakpoint
  split
  case isFalse => rfl
  case isTrue h =>
    simp only [Bool.and_eq_true, Bool.not_eq_true'] at h
    obtain ⟨⟨⟨htarget, -⟩, -⟩, hskip⟩ := h
    have hfree := (hclear htarget).resolve_left (by simp [hskip])
    rw [List.find?_eq_none]
    intro n hn hmatch
    simp only [Bool.and_eq_true, decide_eq_true_eq] at hmatch
    exact hfree n (List.mem_range.1 hn) hmatch.1 hmatch.2

/-- A task with a stop request is at its pre-emption point when that is what its last group was (R149). -/
theorem atPoint_of_ppoint {s : State} (hr : s.t.ctl.st = .running) (hw : s.t.pipe.waits = []) (hq : s.t.ctl.stopReq = true)
    (hp : s.t.pipe.ppoint = true) (hh : s.t.pipe.hold = 0) : s.atPoint = true := by
  simp [atPoint, CoreTask.going, hr, hw, hq, hp, hh]

/-- The debug target is a matter of the debug registers. -/
theorem isTarget_switchTo (s : State) (k : Nat) (t : CoreTask) : (s.switchTo k).isTarget t = s.isTarget t := by
  simp [isTarget]

/-- What acting for a core does when it changes that core's task alone: main memory and every other core's task stay. -/
theorem atCore_changes_task {s : State} {core : Nat} {p : CoreTask} {g : State → State} {f : CoreTask → CoreTask}
    (ht : s.taskOn core = some p) (hg : g (s.switchTo core) = (s.switchTo core).onT f) (hf : (f p).id.core = core) :
    (s.atCore core g).taskOn core = some (f p) ∧ (s.atCore core g).mem = s.mem ∧
      ∀ k, k ≠ core → (s.atCore core g).taskOn k = s.taskOn k := by
  have hact : s.atCore core g = s.atCore core (·.onT f) := by simp only [atCore, ht, hg]
  rw [hact]
  refine ⟨by rw [taskOn_atCore_onT ht hf, if_pos rfl], ?_, fun k hk => by rw [taskOn_atCore_onT ht hf, if_neg hk]⟩
  simp [atCore, ht]

end State

end Sys2Proof.Machine

namespace Sys2Proof.Safety

open Sys2Proof.Machine CoreTask

/-- Settles O37: results that land before the stop move no sequencer, so each event's stop, once it is the one due, falls at the group the
task stood before. -/
theorem stopsBetweenGroups : Obligations.StopsBetweenGroups := by
  unfold Obligations.StopsBetweenGroups
  intro core p s ht hr hd hw _ htr stopped calm
  have hp : (s.switchTo core).t = p := State.switchTo_t ht
  have hcore : p.id.core = core := State.core_of_taskOn ht
  have leaves {st : TaskSt} {cause v : Nat} {g : State → State} {f : CoreTask → CoreTask}
      (hg : g (s.switchTo core) = (s.switchTo core).onT f) (hf : StoppedBefore p (f p) st cause v) :
      ∃ u, Host.Outcome.next (s.atCore core g) = (.next u : Out) ∧ stopped st cause v u := by
    obtain ⟨hq, hmem, hother⟩ := State.atCore_changes_task ht hg (hf.core.trans hcore)
    exact ⟨_, rfl, f p, hq, hf.st, hf.xpc, hf.pc, hf.xcause, hf.xval, hf.loops, hf.calls, hmem, hother⟩
  have takes {cause v : Nat} {g : State → State} (hg : g (s.switchTo core) = (s.switchTo core).takeStop false)
      (hdue : (s.switchTo core).dueStop = some (betweenTrap cause v)) :
      ∃ u, Host.Outcome.next (s.atCore core g) = (.next u : Out) ∧ stopped .faulted cause v u :=
    leaves (hg.trans (State.takeStop_of_running (hp ▸ hr) (hp ▸ hw) hdue)) (stopNow_stoppedBefore hw cause v)
  have htarget : (s.switchTo core).isTarget p = s.isTarget p := State.isTarget_switchTo s core p
  have hdbg : (s.switchTo core).dbg = s.dbg := State.switchTo_dbg s core
  generalize s.switchTo core = w at *
  subst hp
  rw [← hdbg] at htr ⊢
  simp only [← htarget]
  have hgoing : w.t.going = true := by simp [going, hr]
  refine ⟨fun hf => takes (if_pos hf) (State.dueStop_freeze hd hf),
    fun hf hi => takes (if_pos ⟨hgoing, hi⟩) (State.dueStop_interval hd hf hi),
    fun hf hi => ⟨fun n hn hfind => ?_, fun hclear hh => ⟨fun hq => ?_, fun hq hstop hpoint => ?_⟩⟩⟩
  · have hb := State.breakpoint_of_match hw hn hfind
    exact takes (if_pos ⟨hgoing, by rw [hb]; rfl⟩) (State.dueStop_breakpoint hd hf hi hb)
  · have hdue := State.dueStop_request hd hf hi (State.breakpoint_none hclear) hh
    exact takes (if_pos ⟨hgoing, hq⟩) (by rw [hdue, if_pos hq])
  · have hdue := State.dueStop_request hd hf hi (State.breakpoint_none hclear) hh
    rw [hq, if_neg Bool.false_ne_true] at hdue
    refine leaves ?_ (yielded_stoppedBefore hw)
    rw [if_pos (State.atPoint_of_ppoint hr hw hstop hpoint hh), hdue]
    exact State.yieldTask_of_no_wait hw htr

end Sys2Proof.Safety
end

section
/-! SUPPORT. The checks of a plain copy at fire: what its fields are, when its kinds, its alignment and its range are right, and what the
order of the checks answers (R204, R208, R211). -/

namespace Sys2Proof.Machine

namespace State

/-! ### An address of the own scratchpad as an engine reads it (R204) -/

theorem place_own {s : State} {a : Nat} (h : a < s.t.usable) : s.place a = .own a := if_pos h

/-- An address below the usable bytes is of kind 0 and names the own scratchpad. -/
theorem space_own {s : State} {a : Word} (hu : s.t.usable ≤ 2 ^ 24) (h : a.toNat < s.t.usable) :
    s.space a = some (Space.own, (0 : Int), (s.t.usable : Int)) ∧ engOffset a = a.toNat := by
  have hk : kindOf a = 0 := by unfold kindOf; omega
  have ho : engOffset a = a.toNat := by rw [engOffset, hk, if_neg (by decide)]; omega
  have hs : engShape a = true := by
    rw [engShape, hk]
    exact decide_eq_true (by omega)
  refine ⟨?_, ho⟩
  rw [space, hs, hk, ho, place_own h]
  rfl

/-- One row in the own scratchpad fits when it ends by the usable bytes. -/
theorem rowsFit_own_row {s : State} {a : Word} (hu : s.t.usable ≤ 2 ^ 24) (h : a.toNat < s.t.usable) (stride : Int) {len : Nat}
    (hl : 0 < len) : s.rowsFit a stride 1 len = decide (a.toNat + len ≤ s.t.usable) := by
  obtain ⟨hs, ho⟩ := space_own hu h
  rw [rowsFit, if_neg (by omega), hs, ho, Bool.eq_iff_iff]
  simp only [Nat.sub_self, Int.natCast_zero, Int.zero_mul, Int.add_zero, Bool.and_eq_true, decide_eq_true_eq]
  omega

/-! ### A plain copy (R211) -/

/-- A copy with no swizzle and no completion word, as a cpy captures it. -/
def plainCopy (s : State) (n : Fin 16) (tag : BitVec 16) : Cmd := s.capture .cpy n.val false false 0 tag none none

variable {s : State} {n : Fin 16} {tag : BitVec 16}

theorem plainCopy_dv (s : State) (n : Fin 16) (tag : BitVec 16) {k : Nat} (hk : k < 8) : (s.plainCopy n tag).dv k = s.t.dval k := by
  simp [plainCopy, capture, Cmd.dv, hk]

theorem plainCopy_rows : (s.plainCopy n tag).rows = (s.t.dval 2).toNat / 2 ^ 40 := by
  rw [Cmd.rows, plainCopy_dv s n tag (by decide)]

theorem plainCopy_rowBytes : (s.plainCopy n tag).rowBytes = (s.t.dval 2).toNat % 2 ^ 40 := by
  rw [Cmd.rowBytes, plainCopy_dv s n tag (by decide)]

theorem kindsOk_plainCopy : kindsOk (s.plainCopy n tag) = true ↔ kindOf (s.t.dval 0) ≤ 1 ∧ kindOf (s.t.dval 1) ≤ 1 := by
  have h : kindsOk (s.plainCopy n tag) = (kindIn (s.t.dval 0) [0, 1] && kindIn (s.t.dval 1) [0, 1]) := by
    simp [kindsOk, plainCopy_dv]
    simp [plainCopy, capture]
  rw [h]
  simp [kindIn]
  omega

theorem alignOk_plainCopy : alignOk (s.plainCopy n tag) = true ↔
    (∀ k ∈ [0, 1, 3, 4], (s.t.dval k).toNat % 4 = 0) ∧ (s.t.dval 2).toNat % 2 ^ 40 % 4 = 0 := by
  have h : alignOk (s.plainCopy n tag) = (granule 4 (s.t.dval 0) (s.t.dval 3) && granule 4 (s.t.dval 1) (s.t.dval 4) &&
      (s.t.dval 2).toNat % 2 ^ 40 % 4 = 0) := by
    simp [alignOk, plainCopy_dv, plainCopy_rowBytes]
    simp [plainCopy, capture]
  rw [h]
  simp [granule]
  omega

theorem rangeOk_plainCopy : s.rangeOk (s.plainCopy n tag) =
    (s.rowsFit (s.t.dval 0) (s.t.dval 3).toInt ((s.t.dval 2).toNat / 2 ^ 40) ((s.t.dval 2).toNat % 2 ^ 40) &&
      s.rowsFit (s.t.dval 1) (s.t.dval 4).toInt ((s.t.dval 2).toNat / 2 ^ 40) ((s.t.dval 2).toNat % 2 ^ 40)) := by
  simp [rangeOk, plainCopy_dv, plainCopy_rowBytes, plainCopy_rows]
  simp [plainCopy, capture]

theorem counted_plainCopy : s.counted (s.plainCopy n tag) = (s.t.dval 2).toNat / 2 ^ 40 * ((s.t.dval 2).toNat % 2 ^ 40) := by
  rw [← plainCopy_rows (n := n) (tag := tag), ← plainCopy_rowBytes (n := n) (tag := tag)]
  rfl

/-! ### The checks in their order (R208) -/

theorem fireTrap_kinds (hk : kindsOk (s.plainCopy n tag) = false) : s.fireTrap (s.plainCopy n tag) = some (fireFault tag 1) := by
  rw [fireTrap, hk]
  rfl

theorem fireTrap_alignment (hk : kindsOk (s.plainCopy n tag) = true) (ha : alignOk (s.plainCopy n tag) = false) :
    s.fireTrap (s.plainCopy n tag) = some (fireFault tag 2) := by
  rw [fireTrap, hk, ha]
  rfl

theorem fireTrap_range (hk : kindsOk (s.plainCopy n tag) = true) (ha : alignOk (s.plainCopy n tag) = true)
    (hr : s.rangeOk (s.plainCopy n tag) = false) : s.fireTrap (s.plainCopy n tag) = some (fireFault tag 3) := by
  rw [fireTrap, hk, ha, hr]
  rfl

/-- A plain copy has no parameter to check, and with no native call outstanding no footprint to break: the counter is left. -/
theorem fireTrap_counter (hk : kindsOk (s.plainCopy n tag) = true) (ha : alignOk (s.plainCopy n tag) = true)
    (hr : s.rangeOk (s.plainCopy n tag) = true) (hn : s.t.eng.natives = []) : s.fireTrap (s.plainCopy n tag) =
      if 2 ^ 31 ≤ s.counted (s.plainCopy n tag) ∨ 2 ^ 32 ≤ s.t.ctr n.val + s.counted (s.plainCopy n tag) then
        some { cause := 0x09, sub := 0, cls := 4, val := BitVec.ofNat 64 (s.counted (s.plainCopy n tag)), reason := 0 }
      else none := by
  have hp : s.paramsOk (s.plainCopy n tag) = true := rfl
  rw [fireTrap, hk, ha, hr, hp, hn]
  rfl

end State

end Sys2Proof.Machine

namespace Sys2Proof.Safety

open Sys2Proof.Machine

/-- Settles O32: each check of a plain copy is a condition on its registers, and the first that fails answers. -/
theorem copyChecksAtFire : Obligations.CopyChecksAtFire := by
  unfold Obligations.CopyChecksAtFire
  intro n tag s t c kind rows bytes fault kinds aligned own
  have hkinds : State.kindsOk (s.plainCopy n tag) = true ↔ kinds := State.kindsOk_plainCopy
  have haligned : State.alignOk (s.plainCopy n tag) = true ↔ aligned := State.alignOk_plainCopy
  refine ⟨fun hk => State.fireTrap_kinds (Bool.eq_false_iff.2 (mt hkinds.1 hk)),
    fun hk ha => State.fireTrap_alignment (hkinds.2 hk) (Bool.eq_false_iff.2 (mt haligned.1 ha)),
    fun hk ha (hrows : (t.dval 2).toNat / 2 ^ 40 = 1) hb hu _ hd hpast => ?_,
    fun ha (hrows : (t.dval 2).toNat / 2 ^ 40 = 1) hb hu h0 h1 hn => ?_⟩
  · have hrow : s.rowsFit (t.dval 1) (t.dval 4).toInt 1 bytes = false := by
      rw [State.rowsFit_own_row hu hd _ hb, decide_eq_false (Nat.not_le.2 hpast)]
    refine State.fireTrap_range (hkinds.2 hk) (haligned.2 ha) ?_
    rw [State.rangeOk_plainCopy, hrows, hrow, Bool.and_false]
  · have hcount : s.counted (s.plainCopy n tag) = bytes := by rw [State.counted_plainCopy, hrows, Nat.one_mul]
    have below {k : Nat} (h : own k) : (t.dval k).toNat < t.usable := by simp only [own] at h; omega
    have hk : kinds := by
      have := below h0
      have := below h1
      simp only [kinds, kind]
      omega
    have hrange : s.rangeOk (s.plainCopy n tag) = true := by
      rw [State.rangeOk_plainCopy, hrows, State.rowsFit_own_row hu (below h0) _ hb, State.rowsFit_own_row hu (below h1) _ hb,
        decide_eq_true h0, decide_eq_true h1, Bool.and_self]
    have hfire := State.fireTrap_counter (hkinds.2 hk) (haligned.2 ha) hrange hn
    rw [hcount] at hfire
    exact ⟨hcount, fun (hc : s.t.ctr n.val + bytes < 2 ^ 32) hb => hfire.trans (if_neg (by omega)),
      fun hc => hfire.trans (if_pos (.inr hc))⟩

end Sys2Proof.Safety
end

section
/-! SUPPORT. States in which a memory syllable does not do what its statement says: a core without a cache portion, a task whose held set
has no room, and a row under two names. -/

namespace Sys2Proof.Machine

/-! ### A core without a cache portion (R82) -/

/-- A core whose task's code takes the whole MiB keeps no line in its lease cache. -/
theorem fillLease_without_cache {share : Nat} (h : 0x100000 - share < 128) (ls : List Lease) (line : Nat) (data : BitVec 1024)
    (last : Nat) : State.fillLease share ls line data last = ls.filter (·.line ≠ line) :=
  if_pos (Nat.div_eq_of_lt h)

/-- A line that such a core fetches does not stay: at most the leases it had on other lines do. -/
theorem State.loadLine_without_cache {s : State} {key : BitVec 512} {pa n : Nat} (h : 0x100000 - s.t.code.share < 128)
    (hl : s.leaseOf s.t.id.core (pa / 128) = none) :
    (s.loadLine s.t.id.core key pa n).2.t.lm.leases = s.t.lm.leases.filter (·.line ≠ pa / 128) := by
  simp only [State.loadLine, hl, State.onCore, State.setHome_t, if_true, State.onT_t, fillLease_without_cache h, ite_self]

/-- A task whose code takes the whole MiB, on a core that has the first page of global addresses cached. -/
def cachelessState : State :=
  { State.reset with
    t := { CoreTask.empty 0 with code.share := 0x100000, r.s := [(1, 0x1000000)] },
    mem.tlbCore := [(0, [{ ctx := 0, va := 0x1000000, size := 16, pa := 0, r := true, w := true }])] }

/-- The address it reads: the first of that page. -/
def pageStart : SSrc := .reg (.s 1)

theorem cachelessState_translates : cachelessState.translate 0 0 0x1000000 .r = .ok (0, cachelessState) := rfl

/-- A pref of the page fetches its first line. -/
theorem exec_pref_cachelessState : exec (.pref none pageStart 0) cachelessState = .next (cachelessState.loadLine 0 0 0 1).2 := rfl

/-- A load of the page fetches that line too, and does no more to the core's memory. -/
theorem exec_ld8_cachelessState : ∃ u, exec (.ld8 none .latch pageStart 0) cachelessState = .next u ∧
    u.t.lm = (cachelessState.loadLine 0 0 0 1).2.t.lm := ⟨_, rfl, rfl⟩

/-- The line that is fetched has no place to stay in. -/
theorem cachelessState_leases : (cachelessState.loadLine 0 0 0 1).2.t.lm.leases = [] :=
  State.loadLine_without_cache (s := cachelessState) (by decide +kernel) rfl

/-! ### A held set without room (R364) -/

/-- An ordered task that holds a sector in each of seven lines of one set, one more than R364 allows. -/
def crowdedState : State :=
  { State.reset with
    t := { CoreTask.empty 0 with
      id.ordered := true, held.sectors := (List.range 7).map fun k => (1024 * k, { mask := 1, data := 0 }) } }

/-- A store to the own scratchpad, which adds nothing to the held set, is held back all the same. -/
theorem exec_st8_crowdedState : exec (.st8 none (.const 0) 0 (.const 1)) crowdedState = .next (crowdedState.onT (·.overflow 3)) := rfl

theorem exec_tst_crowdedState :
    exec (.tst .none (.bcast (.const 1)) (.const 0) 0) crowdedState = .next (crowdedState.onT (·.overflow 3)) := rfl

theorem crowdedState_overflow_byte (a : Nat) : readByte (crowdedState.onT (·.overflow 3)).t.lm.scratch a = 0 := rfl

/-- Every lane of a row at address 0 is its own to write. -/
theorem crowdedState_reach (k : Nat) (hk : k < 64 ∧ (crowdedState.t.tlanes .none).getLsbD k = true) :
    0 + 4 * k < crowdedState.t.usable ∧ ∀ n ≤ 32, crowdedState.t.rangeFault (0 + 4 * k) n = none := by
  refine ⟨?_, fun n _ => rfl⟩
  rw [show crowdedState.t.usable = 0xB8000 from rfl]
  omega

/-! ### A row under two names -/

/-- Row 0 of tile n + 1 is what a row 16 of tile n would be. -/
theorem row_sixteen (t : CoreTask) (n : Nat) : t.row (.tile n 16) = t.row (.tile (n + 1) 0) := rfl

/-- A task whose scratchpad begins with a byte 1. -/
def markedState : State := { State.reset with t := { CoreTask.empty 0 with lm.scratch := [(0, 1)] } }

end Sys2Proof.Machine

namespace Sys2Proof.Safety

open Sys2Proof.Machine

/-- Refutes O26: the statement has a load from main memory leave a lease whatever share of the MiB the code takes, and where it leaves no
cache portion no line has a place. -/
theorem not_scalarLoads : ¬ Obligations.ScalarLoads := by
  unfold Obligations.ScalarLoads
  intro h
  obtain ⟨-, -, hglobal⟩ := h
  have hload := hglobal none .latch pageStart 0 cachelessState (.ld8 none .latch pageStart 0) 1 true List.mem_cons_self ⟨rfl, rfl⟩
    (by decide +kernel) (by decide +kernel) (by decide +kernel) (by decide +kernel) rfl
  obtain ⟨u, l, hu, -, -, -, -, -, -, -, -, -, -, -, -, -, hlease⟩ := hload.1 0 cachelessState cachelessState_translates rfl rfl rfl
  obtain ⟨c, hc, -⟩ := hlease (fun j _ => List.not_mem_nil)
  obtain ⟨v, hv, hlm⟩ := exec_ld8_cachelessState
  obtain rfl := Host.Outcome.next.inj (hv.symm.trans hu)
  rw [hlm, cachelessState_leases] at hc
  exact List.not_mem_nil hc

/-- Refutes O27: the frame of the statement ranges over every row number, and row 16 of a tile is row 0 of the next, which a load there
changes. -/
theorem not_rowLoads : ¬ Obligations.RowLoads := by
  unfold Obligations.RowLoads
  intro h
  obtain ⟨hplain, -, -⟩ := h .none (.row 1 0) .yt (.const 0) 0 0 (.tile 1 0) markedState rfl (by decide +kernel) rfl
  obtain ⟨e, b, -, -, heff⟩ := (hplain rfl).1 ⟨rfl, rfl⟩ (by decide +kernel)
  obtain ⟨hloaded, -, -, -, hframe, -⟩ := heff 0
  have hone : elem .i32 ((markedState.t.applyEff 0 e).1.row (.tile 1 0)) 0 = 1 :=
    ((hloaded 0 (by decide)).1 trivial).trans (by decide +kernel)
  have hzero := hframe (.tile 0 16) (by decide)
  rw [row_sixteen] at hzero
  rw [hzero] at hone
  exact absurd hone (by decide +kernel)

/-- Refutes O28: the statement of a store to the own scratchpad leaves the held set free, and where that is over its limit no store issues
(R364). -/
theorem not_scalarStores : ¬ Obligations.ScalarStores := by
  unfold Obligations.ScalarStores
  intro h
  obtain ⟨hown, -, -⟩ := h none (.const 0) (.const 1) 0 crowdedState
    (.st8 none (.const 0) 0 (.const 1)) 1 List.mem_cons_self ⟨rfl, rfl⟩
  obtain ⟨u, hu, hbyte, -⟩ := hown (by decide +kernel) (by decide +kernel) (by decide +kernel)
  have hstored := hbyte 0 (by decide)
  obtain rfl := Host.Outcome.next.inj (exec_st8_crowdedState.symm.trans hu)
  rw [crowdedState_overflow_byte] at hstored
  exact absurd hstored (by decide +kernel)

/-- Refutes O29: the statement of a row store to the own scratchpad leaves the held set free, and where that is over its limit no store
issues (R364). -/
theorem not_rowStores : ¬ Obligations.RowStores := by
  unfold Obligations.RowStores
  intro h
  obtain ⟨htst, -⟩ := h .none (.bcast (.const 1)) (.const 0) 0 crowdedState (by decide +kernel) (by decide +kernel)
  obtain ⟨u, hu, hbyte, -⟩ := htst ⟨rfl, rfl⟩ rfl crowdedState_reach
  have hstored := hbyte 0 (by decide +kernel) 0 (by decide)
  obtain rfl := Host.Outcome.next.inj (exec_tst_crowdedState.symm.trans hu)
  rw [crowdedState_overflow_byte] at hstored
  exact absurd hstored (by decide +kernel)

/-- Refutes O30: the statement has a pref of a mapped page leave a lease whatever share of the MiB the code takes, and where it leaves no
cache portion no line has a place. -/
theorem not_fencesAndPrefetch : ¬ Obligations.FencesAndPrefetch := by
  unfold Obligations.FencesAndPrefetch
  intro h
  obtain ⟨-, -, -, -, hpref⟩ := h none 0 0 pageStart 0 cachelessState
  obtain ⟨-, hmapped, -⟩ := hpref ⟨rfl, rfl⟩
  obtain ⟨u, hu, -, -, -, -, -, hlease⟩ := hmapped 0 cachelessState (by decide +kernel) (by decide +kernel) cachelessState_translates
  obtain ⟨c, hc, -⟩ := hlease (fun j _ => List.not_mem_nil)
  obtain rfl := Host.Outcome.next.inj (exec_pref_cachelessState.symm.trans hu)
  rw [cachelessState_leases] at hc
  exact List.not_mem_nil hc

end Sys2Proof.Safety
end

section
/-! SUPPORT. A context that a resize leaves with more clusters than its new limit: a failed cluster that still waits for its spare is not
free, and of its own a resize gives back free clusters alone. -/

namespace Sys2Proof.Machine

namespace State

/-- The owner's resize takes effect at once in a module that serves and is not gated (R272, R23). -/
theorem exec_resize_at_once {s : State} {m : Master} (x : Fin 64) (hserving : s.serving = true) (howner : s.isOwner m = true)
    (hgated : s.md.gated = false) : exec (.resize m x) s = .next (s.resize x.val) := by
  have hexec : exec (.resize m x) s = .next (s.ownedServing m fun s => s.later (.resize x.val)) := rfl
  rw [hexec, ownedServing, if_pos hserving, owned, if_pos howner, later, hgated]
  rfl

end State

/-- A context that is resident on two clusters, with a limit of one to come into effect and a sealed record in its queue. -/
def strandedCtx : Ctx :=
  { Ctx.free with st := .resident, cPart := 0x0102, part := 0x0101, cQueues := 1, clusters := [0, 1] }

/-- A module that master 1 owns. Both clusters of context 0 have failed while another context's save was in progress, so their spares are
still to come (R28); a destroy of that other context has ended its launch since, and the next frame, which brings the spares, has not
begun. -/
def strandedState : State :=
  { State.reset with
    md.ready := true, md.own.owner := 1, md.lost := [1, 0], mem.hdm := [(255, 0xA5)], exe.ctxs := [(0, strandedCtx)] }

/-- No cluster of the context is free, so the resize to one cluster takes none away. -/
theorem strandedState_resize_clusters : strandedState.freeIn 0 = [] ∧ ((strandedState.resize 0).ctx 0).clusters = [0, 1] := by
  decide +kernel

end Sys2Proof.Machine

namespace Sys2Proof.Safety

open Sys2Proof.Machine

/-- Refutes O44: the statement has a resize without open launches leave a resident context within its new limit, and where the context's
failed clusters still wait for their spares none of them is free to be given back (R28, R274). -/
theorem not_contextCommands : ¬ Obligations.ContextCommands := by
  unfold Obligations.ContextCommands
  intro h
  have hserving : strandedState.serving = true := by decide +kernel
  have howner : strandedState.isOwner ⟨1, 0⟩ = true := by decide +kernel
  obtain ⟨hcommands, -⟩ := h ⟨1, 0⟩ 0 strandedState
  obtain ⟨-, -, -, -, -, -, -, hresize, -⟩ := hcommands hserving howner rfl
  obtain ⟨hwithin, -⟩ := hresize (.inl rfl)
  obtain ⟨u, hu, -, -, hlimit, -⟩ := hwithin (by decide +kernel) rfl
  obtain rfl := Host.Outcome.next.inj ((State.exec_resize_at_once 0 hserving howner rfl).symm.trans hu)
  have hone : ((strandedState.resize 0).ctx 0).clusters.length ≤ 1 := hlimit rfl
  rw [strandedState_resize_clusters.2] at hone
  exact absurd hone (by decide)

end Sys2Proof.Safety
end

section
/-! SUPPORT. The queue registers: what a change of one queue leaves alone, the state a queue returns to, and the seals that a flush clears
(R282, R283, R286, R288, R290). -/

namespace Sys2Proof.Machine

namespace State

/-! ### One queue's change -/

@[simp] theorem queue_setQueue_same (s : State) (q : Nat) (f : Queue → Queue) : (s.setQueue q f).queue q = f (s.queue q) :=
  mget_mset_same ..

theorem queue_setQueue_other (s : State) {q k : Nat} (f : Queue → Queue) (h : k ≠ q) : (s.setQueue q f).queue k = s.queue k :=
  mget_mset_other _ _ _ h

/-- What a command of queue `q` leaves alone: the other queues, the tasks, the open launches and main memory. -/
def KeepsBesides (q : Nat) (s u : State) : Prop :=
  (∀ k, k ≠ q → u.queue k = s.queue k) ∧ u.tasks = s.tasks ∧ u.exe.launches = s.exe.launches ∧ u.mem.phys = s.mem.phys

theorem keepsBesides_setQueue (s : State) (q : Nat) (f : Queue → Queue) : KeepsBesides q s (s.setQueue q f) :=
  ⟨fun _ h => queue_setQueue_other s f h, rfl, rfl, rfl⟩

@[simp] theorem sealed_setQueue (s : State) (q k j : Nat) (f : Queue → Queue) : (s.setQueue q f).sealed k j = s.sealed k j := rfl

/-! ### Skip (R282, R283) -/

/-- A queue with no record in its hand and no open launch is armed or idle, as its head slot is sealed. -/
theorem restState_of_no_work {s : State} {q : Nat} (hr : (s.queue q).record = []) (hl : ∀ l ∈ s.exe.launches, l.q ≠ q) :
    s.restState q = if s.sealed q (s.queue q).head then .armed else .idle := by
  have hopen : (s.exe.launches.filter fun l => l.q = q) = [] := by simpa using hl
  simp [restState, hr, hopen]

/-- Only a waiting queue goes on with the record in its hand. -/
theorem resumeWaiting_of_not_waiting {s : State} {q : Nat} (h : (s.queue q).st ≠ .waiting) : s.resumeWaiting q = s := by
  unfold resumeWaiting
  cases s.liveCtx q with
  | none => rfl
  | some x => exact if_neg fun hw => h hw.1

/-- A queue in error that drops its record and has nothing else to do is armed or idle. -/
theorem skipRecord_of_no_work {s : State} {q : Nat} (he : (s.queue q).st = .error) (hr : (s.queue q).record = [])
    (hl : ∀ l ∈ s.exe.launches, l.q ≠ q) : s.skipRecord q = s.setQueue q fun c =>
      { c with st := if s.sealed q c.head then .armed else .idle, err := 0, frames := 0 } := by
  have hrest := restState_of_no_work hr hl
  have hset : (s.setQueue q fun c => { c with st := s.restState q, err := 0, frames := 0 }) =
      s.setQueue q fun c => { c with st := if s.sealed q c.head then .armed else .idle, err := 0, frames := 0 } := by
    simp only [setQueue, mmod, hrest]
    rfl
  rw [skipRecord, if_pos he, resumeWaiting_of_not_waiting, hset]
  rw [queue_setQueue_same, hrest]
  split <;> exact QueueSt.noConfusion

/-! ### Flush (R282, R283) -/

/-- A byte cleared by one of several writes of zero stays zero through the rest. -/
theorem readByte_foldl_clear (pos : Nat → Nat) (l : List Nat) (m : Memory) {a : Nat} (h : readByte m a = 0 ∨ ∃ j ∈ l, pos j = a) :
    readByte (l.foldl (fun m j => writeByte m (pos j) 0) m) a = 0 := by
  induction l generalizing m with
  | nil => simpa using h
  | cons j l ih =>
    refine ih _ ?_
    by_cases hj : pos j = a
    · exact .inl (hj ▸ readByte_writeByte_same ..)
    · rw [readByte_writeByte_other _ _ (Ne.symm hj)]
      simpa [hj] using h

/-- Clearing the seals of a queue's slots is a write of the launch window alone. -/
theorem clearSlots_frame (s : State) (q : Nat) : (s.clearSlots q).tasks = s.tasks ∧ (s.clearSlots q).exe.launches = s.exe.launches ∧
    (s.clearSlots q).exe.queues = s.exe.queues ∧ (s.clearSlots q).exe.lwBase = s.exe.lwBase ∧ (s.clearSlots q).mem.phys = s.mem.phys := by
  rw [clearSlots]
  exact ⟨rfl, rfl, rfl, rfl, rfl⟩

/-- No slot of a queue is sealed once its slots are cleared. -/
theorem sealed_clearSlots (s : State) (q : Nat) {j : Nat} (hj : j < 16) : (s.clearSlots q).sealed q j = false := by
  have hzero := readByte_foldl_clear (fun j => s.slotPos q j + 255) (List.range 16) s.mem.hdm (a := s.slotPos q j + 255)
    (.inr ⟨j, List.mem_range.2 hj, rfl⟩)
  have hpos : (s.clearSlots q).slotPos q j = s.slotPos q j := by
    obtain ⟨-, -, -, hbase, -⟩ := clearSlots_frame s q
    rw [slotPos, hbase, slotPos]
  rw [sealed, hpos, clearSlots, hzero]
  rfl

theorem sealed_flushQueue (s : State) (q : Nat) {j : Nat} (hj : j < 16) : (s.flushQueue q).sealed q j = false := by
  rw [flushQueue, sealed_setQueue, sealed_clearSlots s q hj]

theorem queue_flushQueue (s : State) (q : Nat) : (s.flushQueue q).queue q =
    { s.queue q with st := .idle, err := 0, head := 0, short := false, record := [], frames := 0, age := 0 } := by
  obtain ⟨-, -, hqueues, -, -⟩ := clearSlots_frame s q
  rw [flushQueue, queue_setQueue_same, queue, hqueues, queue]

theorem keepsBesides_flushQueue (s : State) (q : Nat) : KeepsBesides q s (s.flushQueue q) := by
  obtain ⟨htasks, hlaunches, hqueues, -, hphys⟩ := clearSlots_frame s q
  obtain ⟨kqueues, ktasks, klaunches, kphys⟩ := keepsBesides_setQueue (s.clearSlots q) q fun c =>
    { c with st := .idle, err := 0, head := 0, short := false, record := [], frames := 0, age := 0 }
  rw [flushQueue]
  refine ⟨fun k hk => (kqueues k hk).trans ?_, ktasks.trans htasks, klaunches.trans hlaunches, kphys.trans hphys⟩
  rw [queue, hqueues, queue]

/-! ### Who writes, and when (R23, R27, R290) -/

section
variable {s : State} {m : Master} {q : Fin 64} {v : BitVec 32}

theorem exec_skip (h : s.mayQueue m q.val = true) : exec (.skip m q) s = .next (s.later (.skip q.val)) :=
  congrArg Host.Outcome.next (if_pos h)

theorem exec_flush (h : s.mayQueue m q.val = true) : exec (.flush m q) s = .next (s.later (.flush q.val)) :=
  congrArg Host.Outcome.next (if_pos h)

theorem exec_qPrio (h : s.mayQueue m q.val = true) : exec (.qPrio m q v) s = .next (s.setQueue q.val fun c =>
    { c with prio := if v.toNat % 8 = 7 ∧ s.isOwner m = false then 6 else v.toNat % 8, age := 0 }) := by
  refine congrArg Host.Outcome.next ((if_pos h).trans ?_)
  simp only [Bool.not_eq_true']

theorem exec_qStallclr (h : s.mayQueue m q.val = true) : exec (.qStallclr m q v) s =
    .next (if v.getLsbD 0 then s.setQueue q.val fun c => { c with stall := false } else s) := by
  refine congrArg Host.Outcome.next ?_
  simp only [h, bitOf, true_and]

/-- A master that may not write a queue's registers changes nothing. -/
theorem exec_queue_ignored (h : s.mayQueue m q.val = false) {i : Instr}
    (hi : i ∈ [Instr.skip m q, .flush m q, .qPrio m q v, .qStallclr m q v]) : exec i s = .next s := by
  have hno : ¬s.mayQueue m q.val = true := by simp [h]
  simp only [List.mem_cons, List.not_mem_nil, or_false] at hi
  rcases hi with rfl | rfl | rfl | rfl
  · exact congrArg Host.Outcome.next (if_neg hno)
  · exact congrArg Host.Outcome.next (if_neg hno)
  · exact congrArg Host.Outcome.next (if_neg hno)
  · exact congrArg Host.Outcome.next (if_neg fun hb => hno hb.1)

theorem later_gated (h : s.md.gated = true) (d : Deferred) : s.later d = { s with exe.deferred := s.exe.deferred ++ [d] } := if_pos h

theorem later_ungated (h : s.md.gated = false) (d : Deferred) : s.later d = s.perform d := if_neg (by simp [h])

end

end State

end Sys2Proof.Machine

namespace Sys2Proof.Safety

open Sys2Proof.Machine

/-- Settles O43: a write that is permitted acts on its queue alone, deferred where the module is gated, and any other is ignored. -/
theorem queueControl : Obligations.QueueControl := by
  unfold Obligations.QueueControl
  intro m q v s c turns
  refine ⟨fun hm hg => ?_, fun hm hg => ?_, fun hm => ?_, fun hm i hi => State.exec_queue_ignored hm hi⟩
  · rw [State.exec_skip hm, State.exec_flush hm, State.later_gated hg, State.later_gated hg]
    exact ⟨rfl, rfl⟩
  · refine ⟨fun he hr hl => ?_, ?_⟩
    · have hskip := State.exec_skip hm
      rw [State.later_ungated hg, State.perform, State.skipRecord_of_no_work he hr hl] at hskip
      exact ⟨_, hskip, State.queue_setQueue_same .., State.keepsBesides_setQueue ..⟩
    · have hflush := State.exec_flush hm
      rw [State.later_ungated hg, State.perform] at hflush
      have hqueue := State.queue_flushQueue s q.val
      exact ⟨_, hflush, ⟨fun j hj => State.sealed_flushQueue s q.val hj, by rw [hqueue], by rw [hqueue], by rw [hqueue], by rw [hqueue]⟩,
        State.keepsBesides_flushQueue ..⟩
  · refine ⟨⟨_, State.exec_qPrio hm, State.queue_setQueue_same .., State.keepsBesides_setQueue ..⟩, fun hv => ?_, fun hv => ?_⟩
    · have hclear := State.exec_qStallclr (v := v) hm
      rw [if_pos hv] at hclear
      exact ⟨_, hclear, State.queue_setQueue_same .., State.keepsBesides_setQueue ..⟩
    · rw [State.exec_qStallclr hm, hv, if_neg Bool.false_ne_true]

end Sys2Proof.Safety
end

section
/-! SUPPORT. A launch that a placement restores where its statement has it loaded: the executive holds a saved task of it (R308, R310). -/

namespace Sys2Proof.Machine

/-- A launch of one task, not yet placed. -/
def freshLaunch : Launch :=
  { id := 1, ctx := 0, q := 0, seq := 0, image := 0, params := 0, cnt := 1, mode := 0, sig := none, stamps := none, digests := none,
    log := none, logHead := 0, logLost := false, copies := 1, st := .placing, strobe := none, start := none, traps := 0,
    img := { ordered := false, gen := 0, lat := defaultLat, tiles := 4, accs := 0, share := 0xC0000, groupSize := 1, replicas := 1,
             interval := 65536, params := 0, text := [], data := [], routines := [], bodies := [], relocs := [], report := 0 },
    groups := [{ idx := 0, replica := 0, cluster := 0, st := .unplaced, first := none }],
    placedOnce := false, serial := false, commits := 0, digs := [], order := [], vals := [], held := false, cont := false, save := [],
    joinBy := 0, clock := 0, mapCluster := [], mapSlice := [] }

/-- A task of that launch, saved with its program counter past the first group. -/
def savedTask : CoreTask := { CoreTask.empty 0 with id.launch := 1, id.cnt := 1, r.pc := 1, ctl.st := .saved }

/-- A module at a frame boundary with the launch in placing, its context configured with a partition of one cluster. -/
def restoringState : State :=
  { State.reset with
    md.ready := true, exe.launches := [freshLaunch], exe.saved := [savedTask],
    exe.queues := [(0, { Queue.idle with st := .placing })],
    exe.ctxs := [(0, { Ctx.free with st := .configured, cPart := 0x0101, cQueues := 1, cSaveLen := 0x10000000 })] }

theorem restoringState_clusters (x : Nat) : (restoringState.ctx x).clusters = [] := by
  cases x <;> rfl

/-- The program counter of the task that an outcome leaves on a core. -/
def pcAfter (core : Nat) : Out → Option Nat
  | .next u => (u.taskOn core).map (·.r.pc)
  | _ => none

/-- The frame brings the saved task back to the lowest cluster, its program counter as it was saved. -/
theorem restoringState_frame : pcAfter 0 (exec .roundaboutFrame restoringState) = some 1 := by decide +kernel

end Sys2Proof.Machine

namespace Sys2Proof.Safety

open Sys2Proof.Machine

/-- Refutes O42: the statement has the first placement of a launch load every core at group 0, whatever tasks the executive holds saved,
and a saved task of the launch is restored and goes on where it stopped (R308, R310). -/
theorem not_launchLifeCycle : ¬ Obligations.LaunchLifeCycle := by
  unfold Obligations.LaunchLifeCycle
  intro h
  obtain ⟨-, -, hplace, -⟩ := h
  obtain ⟨u, m, hu, -, -, -, -, -, -, -, -, -, -, hcores⟩ := hplace freshLaunch restoringState (by decide +kernel) (by decide +kernel) rfl rfl
    rfl (by decide +kernel) restoringState_clusters (by decide +kernel) rfl rfl rfl (by decide) (by decide) rfl rfl rfl rfl rfl rfl rfl
    rfl rfl rfl rfl (by decide) (by decide) (by decide) (by decide) (by decide) (by decide) rfl (by decide +kernel) (by decide +kernel)
    (by decide +kernel) (by decide +kernel)
  obtain ⟨p, hp, -, -, -, -, -, -, hpc, -⟩ := hcores 0 (by decide) 0 (by decide)
  have hframe := restoringState_frame
  rw [hu, pcAfter, hp, Option.map_some, hpc] at hframe
  exact absurd hframe (by decide)

end Sys2Proof.Safety
end
